-- ==== Sys2Proof/Word.lean ====
section
/-! DEFINITION. The widths of the machine: bytes, 16-bit words, 64-bit display rows, register and key numbers. -/

namespace Sys2Proof

/-- A byte: a general register, a timer, a memory cell (R31, R41, R42, R70). -/
abbrev Byte := BitVec 8

/-- A 16-bit word: `I`, `PC`, a call-stack entry, an instruction word (R34, R35, R39, R100). -/
abbrev Word := BitVec 16

/-- A display row of 64 pixels; bit 63 - c is column c (R11, R44). -/
abbrev Row := BitVec 64

/-- A general register number; every 4-bit value is one (R31, R102). -/
abbrev Reg := Fin 16

/-- A logical key number 0x0..0xF (R9, R274). -/
abbrev Key := Fin 16

/-- VF, register 15, the flag register (R32). -/
abbrev vF : Reg := 15

end Sys2Proof
end

