-- ==== Sys2Proof/WellFormed.lean ====
section
/-! DEFINITION. Which instruction terms a word can hold: an address fits 12 bits, a sprite height fits 4 bits (R101).
Register numbers and byte immediates are in range by their types (R31, R102). -/

namespace Sys2Proof

/-- `nnn` is a 12-bit address (R101). -/
def addressFits (nnn : Word) : Bool := decide (nnn.toNat < 0x1000)

/-- `n` is a 4-bit count, 0..15 (R101). -/
def heightFits (n : Nat) : Bool := decide (n < 16)

/-- The term is one that some instruction word encodes. -/
def Instr.wellFormed : Instr → Bool
  | .jp nnn | .call nnn | .ldI nnn | .jpV0 nnn => addressFits nnn
  | .drw _ _ n => heightFits n
  | .cls | .ret => true
  | .seImm _ _ | .sneImm _ _ | .ldImm _ _ | .addImm _ _ | .rnd _ _ => true
  | .seReg _ _ | .sneReg _ _ | .ldReg _ _ | .orReg _ _ | .andReg _ _ | .xorReg _ _ => true
  | .addReg _ _ | .sub _ _ | .shr _ _ | .subn _ _ | .shl _ _ => true
  | .skp _ | .sknp _ | .ldVxDt _ | .ldVxK _ | .ldDtVx _ | .ldStVx _ => true
  | .addIVx _ | .ldFVx _ | .ldBVx _ | .ldMemVx _ | .ldVxMem _ => true

end Sys2Proof
end

