-- ==== Sys2Proof/Decode.lean ====
section
/-! DEFINITION. Decoding, total on words and on bytes, and the encoder, both from the opcode map (R100 to R113). -/

namespace Sys2Proof

/-- Nibble `n1` of a word, bits 15..12 (R100). -/
def nibble1 (w : Word) : Nat := w.toNat / 4096 % 16
/-- Nibble `n2` of a word, bits 11..8 (R100). -/
def nibble2 (w : Word) : Nat := w.toNat / 256 % 16
/-- Nibble `n3` of a word, bits 7..4 (R100). -/
def nibble3 (w : Word) : Nat := w.toNat / 16 % 16
/-- Nibble `n4` of a word, bits 3..0 (R100). -/
def nibble4 (w : Word) : Nat := w.toNat % 16

/-- Field x, bits 11..8 (R101). -/
def fieldX (w : Word) : Reg := Fin.ofNat 16 (nibble2 w)
/-- Field y, bits 7..4 (R101). -/
def fieldY (w : Word) : Reg := Fin.ofNat 16 (nibble3 w)
/-- Field n, bits 3..0 (R101). -/
def fieldN (w : Word) : Nat := nibble4 w
/-- Field kk, bits 7..0 (R101). -/
def fieldKk (w : Word) : Byte := BitVec.ofNat 8 (w.toNat % 256)
/-- Field nnn, bits 11..0, zero-extended to 16 bits (R101, R102). -/
def fieldNnn (w : Word) : Word := BitVec.ofNat 16 (w.toNat % 4096)

/-- A row of the opcode map: the fixed nibbles of its pattern (`none` where a letter stands) and the instruction whose
operand fields are bound from the word (R104, R135). -/
structure OpcodeRow where
  n1 : Nat
  n2 : Option Nat
  n3 : Option Nat
  n4 : Option Nat
  build : Word → Instr

/-- A nibble fits a place of a pattern: a letter fits anything, a digit only itself. -/
def nibbleFits (place : Option Nat) (nibble : Nat) : Bool :=
  match place with
  | none => true
  | some digit => nibble == digit

/-- The word matches the row's pattern (R103: `w & mask == match`). -/
def OpcodeRow.fits (r : OpcodeRow) (w : Word) : Bool :=
  nibble1 w == r.n1 && nibbleFits r.n2 (nibble2 w) && nibbleFits r.n3 (nibble3 w) && nibbleFits r.n4 (nibble4 w)

/-- Rows of the families n1 = 0x0 to 0x7 (R105, R106, R107). -/
def rowsLow : List OpcodeRow :=
  [ ⟨0x0, some 0x0, some 0xE, some 0x0, fun _ => .cls⟩,
    ⟨0x0, some 0x0, some 0xE, some 0xE, fun _ => .ret⟩,
    ⟨0x1, none, none, none, fun w => .jp (fieldNnn w)⟩,
    ⟨0x2, none, none, none, fun w => .call (fieldNnn w)⟩,
    ⟨0x3, none, none, none, fun w => .seImm (fieldX w) (fieldKk w)⟩,
    ⟨0x4, none, none, none, fun w => .sneImm (fieldX w) (fieldKk w)⟩,
    ⟨0x5, none, none, some 0x0, fun w => .seReg (fieldX w) (fieldY w)⟩,
    ⟨0x6, none, none, none, fun w => .ldImm (fieldX w) (fieldKk w)⟩,
    ⟨0x7, none, none, none, fun w => .addImm (fieldX w) (fieldKk w)⟩ ]

/-- Rows of the family n1 = 0x8 (R108). -/
def rowsEight : List OpcodeRow :=
  [ ⟨0x8, none, none, some 0x0, fun w => .ldReg (fieldX w) (fieldY w)⟩,
    ⟨0x8, none, none, some 0x1, fun w => .orReg (fieldX w) (fieldY w)⟩,
    ⟨0x8, none, none, some 0x2, fun w => .andReg (fieldX w) (fieldY w)⟩,
    ⟨0x8, none, none, some 0x3, fun w => .xorReg (fieldX w) (fieldY w)⟩,
    ⟨0x8, none, none, some 0x4, fun w => .addReg (fieldX w) (fieldY w)⟩,
    ⟨0x8, none, none, some 0x5, fun w => .sub (fieldX w) (fieldY w)⟩,
    ⟨0x8, none, none, some 0x6, fun w => .shr (fieldX w) (fieldY w)⟩,
    ⟨0x8, none, none, some 0x7, fun w => .subn (fieldX w) (fieldY w)⟩,
    ⟨0x8, none, none, some 0xE, fun w => .shl (fieldX w) (fieldY w)⟩ ]

/-- Rows of the families n1 = 0x9 to 0xE (R106, R107, R109). -/
def rowsHigh : List OpcodeRow :=
  [ ⟨0x9, none, none, some 0x0, fun w => .sneReg (fieldX w) (fieldY w)⟩,
    ⟨0xA, none, none, none, fun w => .ldI (fieldNnn w)⟩,
    ⟨0xB, none, none, none, fun w => .jpV0 (fieldNnn w)⟩,
    ⟨0xC, none, none, none, fun w => .rnd (fieldX w) (fieldKk w)⟩,
    ⟨0xD, none, none, none, fun w => .drw (fieldX w) (fieldY w) (fieldN w)⟩,
    ⟨0xE, none, some 0x9, some 0xE, fun w => .skp (fieldX w)⟩,
    ⟨0xE, none, some 0xA, some 0x1, fun w => .sknp (fieldX w)⟩ ]

/-- Rows of the family n1 = 0xF (R110). -/
def rowsF : List OpcodeRow :=
  [ ⟨0xF, none, some 0x0, some 0x7, fun w => .ldVxDt (fieldX w)⟩,
    ⟨0xF, none, some 0x0, some 0xA, fun w => .ldVxK (fieldX w)⟩,
    ⟨0xF, none, some 0x1, some 0x5, fun w => .ldDtVx (fieldX w)⟩,
    ⟨0xF, none, some 0x1, some 0x8, fun w => .ldStVx (fieldX w)⟩,
    ⟨0xF, none, some 0x1, some 0xE, fun w => .addIVx (fieldX w)⟩,
    ⟨0xF, none, some 0x2, some 0x9, fun w => .ldFVx (fieldX w)⟩,
    ⟨0xF, none, some 0x3, some 0x3, fun w => .ldBVx (fieldX w)⟩,
    ⟨0xF, none, some 0x5, some 0x5, fun w => .ldMemVx (fieldX w)⟩,
    ⟨0xF, none, some 0x6, some 0x5, fun w => .ldVxMem (fieldX w)⟩ ]

/-- The opcode map: the 34 rows of R104. -/
def opcodeMap : List OpcodeRow := rowsLow ++ rowsEight ++ rowsHigh ++ rowsF

/-- Why a decoder turns its input away. -/
inductive Reject where
  /-- Fewer than two bytes were given. -/
  | truncated
  /-- The word matches no row of the opcode map (R111). -/
  | unrecognizedOpcode (w : Word)
  deriving DecidableEq, Repr

/-- The first row of a list that a word matches, applied to the word. -/
def decodeIn (rows : List OpcodeRow) (w : Word) : Option Instr :=
  match rows with
  | [] => none
  | r :: rest => if r.fits w then some (r.build w) else decodeIn rest w

/-- Decoding is a total function of the word (R103, R135). -/
def decode (w : Word) : Except Reject Instr :=
  match decodeIn opcodeMap w with
  | some i => .ok i
  | none => .error (.unrecognizedOpcode w)

/-- The word of two bytes, the high byte first (R77). -/
def bytesToWord (hi lo : Byte) : Word := BitVec.ofNat 16 (hi.toNat * 256 + lo.toNat)

/-- The high byte of a word, the one at the lower address (R77). -/
def highByte (w : Word) : Byte := BitVec.ofNat 8 (w.toNat / 256)

/-- The low byte of a word (R77). -/
def lowByte (w : Word) : Byte := BitVec.ofNat 8 (w.toNat % 256)

/-- Decoding of a byte string: the first instruction and the bytes after it (R77, R100). -/
def decodeBytes : List Byte → Except Reject (Instr × List Byte)
  | hi :: lo :: rest => (decode (bytesToWord hi lo)).map (fun i => (i, rest))
  | [_] => .error .truncated
  | [] => .error .truncated

/-- A word from its four nibbles (R100). -/
def nibblesToWord (n1 n2 n3 n4 : Nat) : Word := BitVec.ofNat 16 (n1 * 4096 + n2 * 256 + n3 * 16 + n4)

/-- A word of the format `?xkk` (R101). -/
def wordXkk (n1 : Nat) (x : Reg) (kk : Byte) : Word := BitVec.ofNat 16 (n1 * 4096 + x.val * 256 + kk.toNat)

/-- A word of the format `?nnn` (R101). -/
def wordNnn (n1 : Nat) (nnn : Word) : Word := BitVec.ofNat 16 (n1 * 4096 + nnn.toNat % 4096)

/-- The word of a well-formed instruction, from the patterns of the opcode map (R104). -/
def Instr.encode : Instr → Word
  | .cls => 0x00E0#16
  | .ret => 0x00EE#16
  | .jp nnn => wordNnn 0x1 nnn
  | .call nnn => wordNnn 0x2 nnn
  | .seImm x kk => wordXkk 0x3 x kk
  | .sneImm x kk => wordXkk 0x4 x kk
  | .seReg x y => nibblesToWord 0x5 x y 0x0
  | .ldImm x kk => wordXkk 0x6 x kk
  | .addImm x kk => wordXkk 0x7 x kk
  | .ldReg x y => nibblesToWord 0x8 x y 0x0
  | .orReg x y => nibblesToWord 0x8 x y 0x1
  | .andReg x y => nibblesToWord 0x8 x y 0x2
  | .xorReg x y => nibblesToWord 0x8 x y 0x3
  | .addReg x y => nibblesToWord 0x8 x y 0x4
  | .sub x y => nibblesToWord 0x8 x y 0x5
  | .shr x y => nibblesToWord 0x8 x y 0x6
  | .subn x y => nibblesToWord 0x8 x y 0x7
  | .shl x y => nibblesToWord 0x8 x y 0xE
  | .sneReg x y => nibblesToWord 0x9 x y 0x0
  | .ldI nnn => wordNnn 0xA nnn
  | .jpV0 nnn => wordNnn 0xB nnn
  | .rnd x kk => wordXkk 0xC x kk
  | .drw x y n => nibblesToWord 0xD x y (n % 16)
  | .skp x => nibblesToWord 0xE x 0x9 0xE
  | .sknp x => nibblesToWord 0xE x 0xA 0x1
  | .ldVxDt x => nibblesToWord 0xF x 0x0 0x7
  | .ldVxK x => nibblesToWord 0xF x 0x0 0xA
  | .ldDtVx x => nibblesToWord 0xF x 0x1 0x5
  | .ldStVx x => nibblesToWord 0xF x 0x1 0x8
  | .addIVx x => nibblesToWord 0xF x 0x1 0xE
  | .ldFVx x => nibblesToWord 0xF x 0x2 0x9
  | .ldBVx x => nibblesToWord 0xF x 0x3 0x3
  | .ldMemVx x => nibblesToWord 0xF x 0x5 0x5
  | .ldVxMem x => nibblesToWord 0xF x 0x6 0x5

/-- The bytes of an instruction as memory holds them, the high byte first (R77). -/
def Instr.bytes (i : Instr) : List Byte := [highByte i.encode, lowByte i.encode]

/-- The instruction the decoder reads from an opcode-table word: its bytes laid out as memory holds them (R77, R100). -/
def decodeTableWord (nbits w : Nat) : Option Instr :=
  let word : Word := BitVec.ofNat 16 (w % 2 ^ nbits)
  match decodeBytes [highByte word, lowByte word] with
  | .ok (i, _) => some i
  | .error _ => none

end Sys2Proof
end

