-- ==== Sys2Proof/Config.lean ====
section
/-! DEFINITION. What is fixed for the machine (R9), and the free values of the environment: constants without a body,
so that no proof can see what they are and a claim holds for every environment. -/

namespace Sys2Proof.Config

/-- Memory holds 4096 bytes at addresses [0, 4096) (R9, R70). -/
def memSize : Nat := 4096

/-- The font table starts at 0x050 (R9, R72). -/
def fontBase : Nat := 0x050

/-- The font table has 16 glyphs of 5 bytes (R9, R72). -/
def fontSize : Nat := 80

/-- Programs are loaded and entered at 0x200 (R9, R291, R293). -/
def entryPoint : Nat := 0x200

/-- The largest ROM, 4096 - 0x200 bytes (R9, R292). -/
def maxRom : Nat := 3584

/-- FREE VALUE (log 4): the byte of draw number `n` of `RANDOM` (R16, R183, R277). -/
opaque randomByte (n : Nat) : Byte

/-- FREE VALUE (log 5): whether the input provider answers, at draw number `n`, that `key` is pressed (R16, R243, R274). -/
opaque keyPressed (n : Nat) (key : Key) : Bool

/-- FREE VALUE (log 3): the key event, if any, that reaches a CPU waiting for a key at draw number `n` (R246). -/
opaque keyEvent (n : Nat) : Option Key

/-- FREE VALUE (log 2): how many timer ticks fall between this CPU transition and the next, `TICK_SCHEDULE` (R272). -/
opaque ticks (n : Nat) : Nat

/-- FREE VALUE (log 2): whether the host writes 0 to `DC` between this CPU transition and the next (R45, R278). -/
opaque hostClearsDc (n : Nat) : Bool

end Sys2Proof.Config
end

