-- ==== Sys2Proof/Machine/State.lean ====
section
/-! DEFINITION. The state of the core (R30) as plain data, the reasons a step stops, and the state after reset. -/

namespace Sys2Proof.Machine

/-- Memory: (address, byte) pairs in the canonical form `Memory.wf` of `Machine/Ops.lean`; an address not listed reads as
`unlistedByte`, its contents at reset (R70, R71). -/
abbrev Memory := List Host.Cell

/-- The four fatal errors of the core (R260), the kinds of `Faulted` (R47). As the outcome `fault` of a step each is
answered by `cpuStep` and `step` only, in the run state `Faulted` that recorded it (R132): execution has terminated, and
stopping there is safe. -/
inductive Fault where
  /-- Recorded by the decode stage, for a word of no opcode-map row (R261). Safe: the spec's own error. -/
  | unrecognizedOpcode
  /-- Recorded by CALL with 16 entries on the stack (R262). Safe: the spec's own error. -/
  | stackOverflow
  /-- Recorded by RET with an empty stack (R263). Safe: the spec's own error. -/
  | stackUnderflow
  /-- Recorded by the fetch and by DRW, LD_B_VX, LD_MEM_VX, LD_VX_MEM for an address outside [0, 4096) (R264). Safe: the
  spec's own error. -/
  | outOfBoundsMemoryAccess
  deriving DecidableEq, Repr

/-- Why a step has no meaning. -/
inductive Refusal where
  /-- Answered by an arm of `exec` for an instruction that has no meaning yet. Safe: no claim holds of such a step. -/
  | notModelled (mnemonic : String)
  /-- Answered by SKP and SKNP with `V[x]` >= 16, to which the spec gives no meaning: `Undefined(KeyIndexOutOfRange)`
  (R141, R247). Safe: no claim holds of such a step. -/
  | keyIndexOutOfRange
  deriving DecidableEq, Repr

/-- The run state `RS` (R47). -/
inductive RunState where
  | running
  | awaitingKey (x : Reg)
  | faulted (kind : Fault)
  deriving DecidableEq, Repr

/-- What a step returns to the host (R140), less `Undefined`, which is the outcome `refused`. -/
inductive StepResult where
  | executed
  | waiting
  | fatal (kind : Fault)
  deriving DecidableEq, Repr

/-- The parameter `EDGE_POLICY`: what happens to sprite pixels past the right or bottom edge (I3; R223 is `drop`). -/
inductive EdgePolicy where
  | drop
  | wrapRows
  | wrapBoth
  deriving DecidableEq, Repr

/-- The architectural state, exactly the items of R30, and two fields of the model's own: `edge`, a parameter that no step
writes (log 8), and `draws`, how many free values have been spent (log 6). -/
structure State where
  /-- `MEM` (R70). -/
  mem : Memory
  /-- `V[0]`..`V[15]` (R31). -/
  v : Vector Byte 16
  /-- `I` (R34). -/
  i : Word
  /-- `PC` (R35). -/
  pc : Word
  /-- `S[0]`..`S[15]` (R39). -/
  stack : Vector Word 16
  /-- `SP`, 0..16 (R40). -/
  sp : Fin 17
  /-- `DT` (R41). -/
  dt : Byte
  /-- `ST` (R42). -/
  st : Byte
  /-- `FB[0]`..`FB[31]` (R44). -/
  fb : Vector Row 32
  /-- `DC` (R45). -/
  dc : Bool
  /-- `FADE[0]`..`FADE[31]` (R46). -/
  fade : Vector Row 32
  /-- `RS` (R47). -/
  rs : RunState
  /-- The parameter `EDGE_POLICY` of I3, the model's own field (log 8). -/
  edge : EdgePolicy
  /-- How many free values of the environment have been spent, the model's own field (log 6). -/
  draws : Nat
  deriving DecidableEq, Repr

/-- The state at the first step with a ROM of no bytes: construction (R290), then `load_rom` (R291), as R294 tabulates it.
Nothing is listed in `mem`: every address holds its reset contents (log 7, log 9). -/
def State.reset : State where
  mem := []
  v := Vector.replicate 16 0
  i := 0
  pc := 0x200#16
  stack := Vector.replicate 16 0
  sp := 0
  dt := 0
  st := 0
  fb := Vector.replicate 32 0
  dc := false
  fade := Vector.replicate 32 0
  rs := .running
  edge := .drop
  draws := 0

end Sys2Proof.Machine
end

