-- ==== Sys2Proof/Machine/Ops.lean ====
section
/-! DEFINITION. The named operations over memory and registers: the font and the reset contents of memory, byte and range
accesses with their bounds check, the writers of each piece of state, the moves of `PC`, the call stack, taking a fatal
error, fetching an instruction word, construction and `load_rom`, and what the host reads. -/

namespace Sys2Proof.Machine

/-- What an instruction or a step answers. -/
abbrev Answer := Host.Outcome State Fault Refusal

/-! ### Memory -/

/-- Glyphs 0 to 7 of the default `FONT` (R73; log 7). -/
def fontLow : List Byte :=
  [ 0xF0#8, 0x90#8, 0x90#8, 0x90#8, 0xF0#8,
    0x20#8, 0x60#8, 0x20#8, 0x20#8, 0x70#8,
    0xF0#8, 0x10#8, 0xF0#8, 0x80#8, 0xF0#8,
    0xF0#8, 0x10#8, 0xF0#8, 0x10#8, 0xF0#8,
    0x90#8, 0x90#8, 0xF0#8, 0x10#8, 0x10#8,
    0xF0#8, 0x80#8, 0xF0#8, 0x10#8, 0xF0#8,
    0xF0#8, 0x80#8, 0xF0#8, 0x90#8, 0xF0#8,
    0xF0#8, 0x10#8, 0x20#8, 0x40#8, 0x40#8 ]

/-- Glyphs 8 to F of the default `FONT` (R73; log 7). -/
def fontHigh : List Byte :=
  [ 0xF0#8, 0x90#8, 0xF0#8, 0x90#8, 0xF0#8,
    0xF0#8, 0x90#8, 0xF0#8, 0x10#8, 0xF0#8,
    0xF0#8, 0x90#8, 0xF0#8, 0x90#8, 0x90#8,
    0xE0#8, 0x90#8, 0xE0#8, 0x90#8, 0xE0#8,
    0xF0#8, 0x80#8, 0x80#8, 0x80#8, 0xF0#8,
    0xE0#8, 0x90#8, 0x90#8, 0x90#8, 0xE0#8,
    0xF0#8, 0x80#8, 0xF0#8, 0x80#8, 0xF0#8,
    0xF0#8, 0x80#8, 0xF0#8, 0x80#8, 0x80#8 ]

/-- The default of the parameter `FONT`, 80 bytes (R73; log 7). -/
def defaultFont : List Byte := fontLow ++ fontHigh

/-- What an address that memory does not list reads as: its reset contents, the default font at 0x050..0x09F and 0
elsewhere (R71, R73, R290). -/
def unlistedByte (a : Nat) : Byte :=
  if Config.fontBase ≤ a ∧ a < Config.fontBase + Config.fontSize then defaultFont.getD (a - Config.fontBase) 0 else 0

/-- The canonical form: addresses strictly rising and below 4096, no entry equal to what an unlisted address reads as. -/
abbrev Memory.wf (m : Memory) : Prop :=
  m.Pairwise (fun c d => c.1 < d.1) ∧ ∀ c ∈ m, c.1 < Config.memSize ∧ c.2 ≠ unlistedByte c.1

/-- The byte at an address (R76, R82). -/
def Memory.get : Memory → Nat → Byte
  | [], a => unlistedByte a
  | (b, w) :: rest, a => if a = b then w else Memory.get rest a

/-- Memory with one byte written, in canonical form again (R76, R82). -/
def Memory.put : Memory → Nat → Byte → Memory
  | [], a, x => if x = unlistedByte a then [] else [(a, x)]
  | (b, w) :: rest, a, x =>
    if a < b then
      if x = unlistedByte a then (b, w) :: rest else (a, x) :: (b, w) :: rest
    else if a = b then
      if x = unlistedByte a then rest else (a, x) :: rest
    else (b, w) :: Memory.put rest a x

/-- The `n` bytes from an address up, each a byte read (R76, R78). -/
def Memory.getRange (m : Memory) (base : Nat) : Nat → List Byte
  | 0 => []
  | n + 1 => m.get base :: m.getRange (base + 1) n

/-- Memory with bytes written from an address up, one by one (R76, R78). -/
def Memory.putRange (m : Memory) (base : Nat) : List Byte → Memory
  | [] => m
  | b :: rest => Memory.putRange (m.put base b) (base + 1) rest

/-- `Check(addr, n)`: every one of the n bytes from `base` is in [0, 4096), the address an unbounded integer (R14, R76). -/
def rangeInMemory (base n : Nat) : Bool := n == 0 || decide (base + n ≤ Config.memSize)

/-! ### Writers of the state, one for each of its parts -/

def State.setMem (s : State) (m : Memory) : State := { s with mem := m }
def State.setV (s : State) (v : Vector Byte 16) : State := { s with v := v }
def State.setI (s : State) (w : Word) : State := { s with i := w }
def State.setPc (s : State) (w : Word) : State := { s with pc := w }
def State.setStack (s : State) (k : Vector Word 16) : State := { s with stack := k }
def State.setSp (s : State) (d : Fin 17) : State := { s with sp := d }
def State.setDt (s : State) (b : Byte) : State := { s with dt := b }
def State.setSt (s : State) (b : Byte) : State := { s with st := b }
def State.setFb (s : State) (f : Vector Row 32) : State := { s with fb := f }
def State.setDc (s : State) (b : Bool) : State := { s with dc := b }
def State.setFade (s : State) (f : Vector Row 32) : State := { s with fade := f }
def State.setRs (s : State) (r : RunState) : State := { s with rs := r }
def State.setEdge (s : State) (p : EdgePolicy) : State := { s with edge := p }
def State.setDraws (s : State) (n : Nat) : State := { s with draws := n }

/-! ### Registers -/

/-- `V[x]` (R13, R31). -/
def State.reg (s : State) (x : Reg) : Byte := s.v[x.val]

/-- `V[x] <- b` (R13, R31). -/
def State.setReg (s : State) (x : Reg) (b : Byte) : State := s.setV (s.v.set x.val b)

/-- Registers from number k up receive a list of bytes (the loop of R205). -/
def putRegs (v : Vector Byte 16) (k : Nat) : List Byte → Vector Byte 16
  | [] => v
  | b :: rest => putRegs (v.setIfInBounds k b) (k + 1) rest

/-- The next free value is spent (log 6). -/
def State.spendDraw (s : State) : State := s.setDraws (s.draws + 1)

/-! ### The moves of `PC` (R137) -/

/-- The sequential move `PC <- PC + 2` (R137; at the top of the 16-bit space log 11). -/
def State.advance (s : State) : State := s.setPc (s.pc + 2#16)

/-- The conditional skip: `PC + 4` if the condition holds, else `PC + 2` (R137, R138). -/
def State.skipIf (s : State) (c : Bool) : State := s.setPc (if c then s.pc + 4#16 else s.pc + 2#16)

/-! ### The call stack (R39, R40) -/

/-- `S[SP] <- w; SP <- SP + 1`, or nothing when the stack holds 16 entries (R151). -/
def State.push (s : State) (w : Word) : Option State :=
  if h : s.sp.val < 16 then some ((s.setStack (s.stack.set s.sp.val w h)).setSp ⟨s.sp.val + 1, by omega⟩) else none

/-- `SP <- SP - 1` and the entry `S[SP]` then on top, which keeps its value, or nothing when the stack is empty (R152). -/
def State.pop (s : State) : Option (Word × State) :=
  if h : s.sp.val = 0 then none
  else some (s.stack[s.sp.val - 1]'(by omega), s.setSp ⟨s.sp.val - 1, by omega⟩)

/-! ### Fatal errors (R131, R139, R267) -/

/-- TAKING A FATAL ERROR: every other write of the step is discarded, `PC` stays at the faulting instruction, `RS` becomes
`Faulted(kind)`; there is no vector, no saved register and no mode change (R131, R139, R267). `s` is the state before the
step. There is no return from it (R268): a step in `Faulted(kind)` answers `fault kind` (R132; log 1). -/
def raise (kind : Fault) (s : State) : Answer := .next (s.setRs (.faulted kind))

/-- The numeric code of an error kind (R260). -/
def Fault.code : Fault → Nat
  | .unrecognizedOpcode => 1
  | .stackOverflow => 2
  | .stackUnderflow => 3
  | .outOfBoundsMemoryAccess => 4

/-- The outcome a step returned to the host, read off the run state it left (the table of R140; log 1). -/
def State.result (s : State) : StepResult :=
  match s.rs with
  | .running => .executed
  | .awaitingKey _ => .waiting
  | .faulted k => .fatal k

/-! ### Checked accesses -/

/-- The byte at an address, as the state holds it (R76). -/
def State.readByte (s : State) (a : Nat) : Byte := s.mem.get a

/-- `Check(base, n)`, then n byte reads from `base` up; `none` is `OutOfBoundsMemoryAccess` (R76, R136). -/
def State.loadBytes (s : State) (base n : Nat) : Option (List Byte) :=
  if rangeInMemory base n then some (s.mem.getRange base n) else none

/-- `Check` of the range, then byte writes from `base` up; `none` is `OutOfBoundsMemoryAccess`, nothing written (R76,
R136, R139). -/
def State.storeBytes (s : State) (base : Nat) (bytes : List Byte) : Option State :=
  if rangeInMemory base bytes.length then some (s.setMem (s.mem.putRange base bytes)) else none

/-- `Fetch(PC)`: the big-endian word at `PC` and `PC + 1`, at any `PC`, odd or even; `none` is `OutOfBoundsMemoryAccess`
(R77, R79, R134). -/
def State.fetch (s : State) : Option Word :=
  if rangeInMemory s.pc.toNat 2 then some (bytesToWord (s.readByte s.pc.toNat) (s.readByte (s.pc.toNat + 1))) else none

/-! ### Construction and `load_rom` -/

/-- Construction with the host's 80 bytes of `FONT`; no step is taken before `load_rom` (R73, R290, R292). -/
def State.construct (font : Vector Byte 80) : State :=
  (State.reset.setMem (Memory.putRange [] Config.fontBase font.toList)).setPc 0#16

/-- `load_rom(bytes)`: the bytes are copied to 0x200 up and `PC` becomes 0x200; a ROM of more than 3584 bytes is refused
and the machine is not started (R291, R292; log 12). -/
def State.loadRom (s : State) (rom : List Byte) : Option State :=
  if rom.length ≤ Config.maxRom then some ((s.setMem (s.mem.putRange Config.entryPoint rom)).setPc 0x200#16) else none

/-! ### What the host reads (R278) -/

/-- Pixel (column c, row r) is set: bit 63 - c of `FB[r]` (R44, R276). -/
def State.pixel (s : State) (c r : Nat) : Bool := (s.fb[r]?.getD 0).getLsbD (63 - c)

/-- Pixel (column c, row r) of the cosmetic overlay `FADE` (R46, R276). -/
def State.fadePixel (s : State) (c r : Nat) : Bool := (s.fade[r]?.getD 0).getLsbD (63 - c)

/-- `is_beeping`: `ST` > 0 (R43, R275). -/
def State.isBeeping (s : State) : Bool := decide (s.st.toNat > 0)

end Sys2Proof.Machine
end

