-- ==== Sys2Proof/Machine/Operands.lean ====
section
/-! DEFINITION. The operand forms: what an instruction reads before it writes (R136): key numbers, glyph addresses,
decimal digits, register blocks, sprite coordinates and sprite rows. -/

namespace Sys2Proof.Machine

/-- The address in `I` from which an instruction's bytes are counted, an unbounded integer (R76, R206). -/
def State.base (s : State) : Nat := s.i.toNat

/-- The logical key a register value names, if it names one (R243, R247). -/
def keyNumber (b : Byte) : Option Key := if h : b.toNat < 16 then some ⟨b.toNat, h⟩ else none

/-- The value a key number has in a register (R246). -/
def keyByte (k : Key) : Byte := BitVec.ofNat 8 k.val

/-- The address of the glyph for the whole of a register value, no masking (R72, R202). -/
def glyphAddress (b : Byte) : Word := BitVec.ofNat 16 (Config.fontBase + 5 * b.toNat)

/-- `trunc_16(I + V[x])` (R201). -/
def indexPlus (i : Word) (b : Byte) : Word := BitVec.ofNat 16 (i.toNat + b.toNat)

/-- `zext_16(V[0]) + nnn` (R153). -/
def registerTarget (b : Byte) (nnn : Word) : Word := BitVec.ofNat 16 (b.toNat + nnn.toNat)

/-- The three decimal digits of a byte: hundreds, tens, ones (R203; log 20). -/
def decimalDigits (b : Byte) : List Byte :=
  [BitVec.ofNat 8 (b.toNat / 100), BitVec.ofNat 8 (b.toNat / 10 % 10), BitVec.ofNat 8 (b.toNat % 10)]

/-- V0 through `V[x]` inclusive (R204). -/
def State.regsThrough (s : State) (x : Reg) : List Byte := s.v.toList.take (x.val + 1)

/-- The start column of a sprite, `V[x] mod 64` (R221, R223; log 8). -/
def startColumn (b : Byte) : Nat := b.toNat % 64

/-- The start row of a sprite, `V[y] mod 32` (R221, R223; log 8). -/
def startRow (b : Byte) : Nat := b.toNat % 32

/-- `SpriteRow(b, x0)`: bit 7 of the byte lands in column x0, columns past 63 are shifted out (R222). -/
def spriteRow (b : Byte) (x0 : Nat) : Row := ((b.setWidth 64) <<< 56) >>> x0

/-- The sprite byte in its place on a display row, under the edge policy: under `wrapBoth` columns past 63 come round to
column 0 (R222, I3). -/
def alignedRow (p : EdgePolicy) (b : Byte) (x0 : Nat) : Row :=
  match p with
  | .drop => spriteRow b x0
  | .wrapRows => spriteRow b x0
  | .wrapBoth => ((b.setWidth 64) <<< 56).rotateRight x0

/-- The display row of sprite row r, if it is drawn: past row 31 it is dropped, or comes round under the two wrapping
policies (R221, R223, I3). -/
def displayRow (p : EdgePolicy) (y0 r : Nat) : Option (Fin 32) :=
  match p with
  | .drop => if h : y0 + r < 32 then some ⟨y0 + r, h⟩ else none
  | .wrapRows => some (Fin.ofNat 32 (y0 + r))
  | .wrapBoth => some (Fin.ofNat 32 (y0 + r))

end Sys2Proof.Machine
end

