-- ==== Sys2Proof/Machine/Flags.lean ====
section
/-! DEFINITION. The arithmetic with a flag: each result and each flag VF receives (R170, R171). Sums and differences are
taken on unbounded integers and narrowed explicitly (R12). -/

namespace Sys2Proof.Machine

/-- `bool(c)` as VF holds it (R12). -/
def flagByte (c : Bool) : Byte := if c then 1#8 else 0#8

/-- `trunc_8(vx + vy)` (R170, R178). -/
def addResult (vx vy : Byte) : Byte := BitVec.ofNat 8 (vx.toNat + vy.toNat)

/-- The carry out of bit 7: the sum exceeds 255 (R178). -/
def addCarry (vx vy : Byte) : Bool := decide (vx.toNat + vy.toNat > 255)

/-- `trunc_8(a - b + 256)` (R170, R179, R181). -/
def subResult (a b : Byte) : Byte := BitVec.ofNat 8 (a.toNat + 256 - b.toNat)

/-- No borrow: a >= b, equality included (R179, R181). -/
def subNoBorrow (a b : Byte) : Bool := decide (a.toNat ≥ b.toNat)

/-- `vx >> 1`, bit 7 becomes 0 (R180). -/
def shrResult (vx : Byte) : Byte := vx >>> 1

/-- The bit SHR shifts out, bit 0 (R180). -/
def shrOut (vx : Byte) : Bool := vx.getLsbD 0

/-- `trunc_8(vx << 1)`, bit 0 becomes 0 (R182). -/
def shlResult (vx : Byte) : Byte := vx <<< 1

/-- The bit SHL shifts out, bit 7 (R182). -/
def shlOut (vx : Byte) : Bool := vx.getLsbD 7

/-- The result to `V[x]`, then the flag to VF, so that the flag is what VF holds when x = 0xF (R171). -/
def State.setWithFlag (s : State) (x : Reg) (result : Byte) (flag : Bool) : State :=
  (s.setReg x result).setReg vF (flagByte flag)

end Sys2Proof.Machine
end

