-- ==== Sys2Proof/Machine/Alu.lean ====
section
/-! DEFINITION. Register loads and arithmetic (`42_alu.md`). -/

namespace Sys2Proof.Machine

/-- LD_IMM, 6xkk (R172). -/
def execLdImm (x : Reg) (kk : Byte) (s : State) : Answer := .next (s.setReg x kk).advance

/-- ADD_IMM, 7xkk: no flag (R173). -/
def execAddImm (x : Reg) (kk : Byte) (s : State) : Answer := .next (s.setReg x (addResult (s.reg x) kk)).advance

/-- LD_REG, 8xy0 (R174). -/
def execLdReg (x y : Reg) (s : State) : Answer := .next (s.setReg x (s.reg y)).advance

/-- OR, 8xy1: no flag (R175). -/
def execOrReg (x y : Reg) (s : State) : Answer := .next (s.setReg x (s.reg x ||| s.reg y)).advance

/-- AND, 8xy2: no flag (R176). -/
def execAndReg (x y : Reg) (s : State) : Answer := .next (s.setReg x (s.reg x &&& s.reg y)).advance

/-- XOR, 8xy3: no flag (R177). -/
def execXorReg (x y : Reg) (s : State) : Answer := .next (s.setReg x (s.reg x ^^^ s.reg y)).advance

/-- ADD_REG, 8xy4: VF is the carry (R178). -/
def execAddReg (x y : Reg) (s : State) : Answer :=
  .next (s.setWithFlag x (addResult (s.reg x) (s.reg y)) (addCarry (s.reg x) (s.reg y))).advance

/-- SUB, 8xy5: VF is 1 when no borrow occurs (R179). -/
def execSub (x y : Reg) (s : State) : Answer :=
  .next (s.setWithFlag x (subResult (s.reg x) (s.reg y)) (subNoBorrow (s.reg x) (s.reg y))).advance

/-- SHR, 8xy6: `V[x]` in place, y is not used; VF is the bit shifted out (R180). -/
def execShr (x _y : Reg) (s : State) : Answer :=
  .next (s.setWithFlag x (shrResult (s.reg x)) (shrOut (s.reg x))).advance

/-- SUBN, 8xy7: `V[y] - V[x]`; VF is 1 when no borrow occurs (R181). -/
def execSubn (x y : Reg) (s : State) : Answer :=
  .next (s.setWithFlag x (subResult (s.reg y) (s.reg x)) (subNoBorrow (s.reg y) (s.reg x))).advance

/-- SHL, 8xyE: `V[x]` in place, y is not used; VF is the bit shifted out (R182). -/
def execShl (x _y : Reg) (s : State) : Answer :=
  .next (s.setWithFlag x (shlResult (s.reg x)) (shlOut (s.reg x))).advance

/-- RND, Cxkk: a free byte of the environment ANDed with kk (R183, R277; log 4). -/
def execRnd (x : Reg) (kk : Byte) (s : State) : Answer :=
  .next ((s.setReg x (Config.randomByte s.draws &&& kk)).spendDraw).advance

end Sys2Proof.Machine
end

