-- ==== Sys2Proof/Machine/Control.lean ====
section
/-! DEFINITION. Control transfer and conditional skips (`41_control.md`). -/

namespace Sys2Proof.Machine

/-- JP, 1nnn (R150). -/
def execJp (nnn : Word) (s : State) : Answer := .next (s.setPc nnn)

/-- CALL, 2nnn: the address of this instruction is pushed (R151, R262). -/
def execCall (nnn : Word) (s : State) : Answer :=
  match s.push s.pc with
  | none => raise .stackOverflow s
  | some t => .next (t.setPc nnn)

/-- RET, 00EE: on to the instruction after the call that pushed the entry (R152, R263). -/
def execRet (s : State) : Answer :=
  match s.pop with
  | none => raise .stackUnderflow s
  | some (w, t) => .next (t.setPc (w + 2#16))

/-- JP_V0, Bnnn (R153). -/
def execJpV0 (nnn : Word) (s : State) : Answer := .next (s.setPc (registerTarget (s.reg 0) nnn))

/-- SE_IMM, 3xkk (R154). -/
def execSeImm (x : Reg) (kk : Byte) (s : State) : Answer := .next (s.skipIf (s.reg x == kk))

/-- SNE_IMM, 4xkk (R155). -/
def execSneImm (x : Reg) (kk : Byte) (s : State) : Answer := .next (s.skipIf (s.reg x != kk))

/-- SE_REG, 5xy0 (R156). -/
def execSeReg (x y : Reg) (s : State) : Answer := .next (s.skipIf (s.reg x == s.reg y))

/-- SNE_REG, 9xy0 (R157). -/
def execSneReg (x y : Reg) (s : State) : Answer := .next (s.skipIf (s.reg x != s.reg y))

end Sys2Proof.Machine
end

