-- ==== Sys2Proof/Machine/Display.lean ====
section
/-! DEFINITION. The display (`44_display.md`). -/

namespace Sys2Proof.Machine

/-- What a draw builds row by row: the framebuffer, the fading overlay, and whether a set pixel was cleared (R221). -/
structure Canvas where
  fb : Vector Row 32
  fade : Vector Row 32
  collided : Bool
  deriving DecidableEq, Repr

/-- One sprite row composited onto display row `dr`: the collision row goes to `FADE`, the XOR to `FB` (R221, R224). -/
def blendRow (dr : Fin 32) (row : Row) (c : Canvas) : Canvas where
  fb := c.fb.set dr.val (c.fb[dr.val] ^^^ row)
  fade := c.fade.set dr.val (c.fb[dr.val] &&& row)
  collided := c.collided || (c.fb[dr.val] &&& row) != 0#64

/-- Sprite row number r with byte b, drawn or dropped (R221, R223). -/
def drawRow (p : EdgePolicy) (x0 y0 r : Nat) (b : Byte) (c : Canvas) : Canvas :=
  match displayRow p y0 r with
  | none => c
  | some dr => blendRow dr (alignedRow p b x0) c

/-- The row loop of DRW over the sprite bytes, from sprite row r on (R221). -/
def drawRows (p : EdgePolicy) (x0 y0 r : Nat) : List Byte → Canvas → Canvas
  | [], c => c
  | b :: rest, c => drawRows p x0 y0 (r + 1) rest (drawRow p x0 y0 r b c)

/-- The canvas a draw starts from: the framebuffer as it is, the overlay cleared, no collision yet (R221, R226). -/
def State.canvas (s : State) : Canvas := ⟨s.fb, Vector.replicate 32 0#64, false⟩

/-- The canvas after a whole sprite at (`V[x]`, `V[y]`) (R221). -/
def State.drawSprite (s : State) (x y : Reg) (sprite : List Byte) : Canvas :=
  drawRows s.edge (startColumn (s.reg x)) (startRow (s.reg y)) 0 sprite s.canvas

/-- CLS, 00E0: `FADE` is not written (R220). -/
def execCls (s : State) : Answer := .next (((s.setFb (Vector.replicate 32 0#64)).setDc true).advance)

/-- DRW, Dxyn: all n bytes are checked and read first, VF is written after the whole sprite (R221 to R226, R264). -/
def execDrw (x y : Reg) (n : Nat) (s : State) : Answer :=
  match s.loadBytes s.base n with
  | none => raise .outOfBoundsMemoryAccess s
  | some sprite =>
    let c := s.drawSprite x y sprite
    .next ((((s.setFb c.fb).setFade c.fade).setReg vF (flagByte c.collided)).setDc true).advance

end Sys2Proof.Machine
end

