-- ==== Sys2Proof/Machine/IndexMemory.lean ====
section
/-! DEFINITION. The index register and memory transfers (`43_index_memory.md`). -/

namespace Sys2Proof.Machine

/-- LD_I, Annn (R200). -/
def execLdI (nnn : Word) (s : State) : Answer := .next (s.setI nnn).advance

/-- ADD_I_VX, Fx1E: modulo 2^16, no flag (R201). -/
def execAddIVx (x : Reg) (s : State) : Answer := .next (s.setI (indexPlus s.i (s.reg x))).advance

/-- LD_F_VX, Fx29 (R202). -/
def execLdFVx (x : Reg) (s : State) : Answer := .next (s.setI (glyphAddress (s.reg x))).advance

/-- LD_B_VX, Fx33: the three decimal digits at `I`, `I+1`, `I+2` (R203, R264). -/
def execLdBVx (x : Reg) (s : State) : Answer :=
  match s.storeBytes s.base (decimalDigits (s.reg x)) with
  | none => raise .outOfBoundsMemoryAccess s
  | some t => .next t.advance

/-- LD_MEM_VX, Fx55: V0 through `V[x]` stored from `I` up; `I` is not changed (R204, R264). -/
def execLdMemVx (x : Reg) (s : State) : Answer :=
  match s.storeBytes s.base (s.regsThrough x) with
  | none => raise .outOfBoundsMemoryAccess s
  | some t => .next t.advance

/-- LD_VX_MEM, Fx65: V0 through `V[x]` loaded from `I` up; `I` is not changed (R205, R264). -/
def execLdVxMem (x : Reg) (s : State) : Answer :=
  match s.loadBytes s.base (x.val + 1) with
  | none => raise .outOfBoundsMemoryAccess s
  | some bytes => .next (s.setV (putRegs s.v 0 bytes)).advance

end Sys2Proof.Machine
end

