-- ==== Sys2Proof/Machine/TimersInput.lean ====
section
/-! DEFINITION. Timer access and key input (`45_timers_input.md`), and the transitions of the other two agents: the timer
tick, the key event and the host's clear of `DC` (R246, R271, R278). -/

namespace Sys2Proof.Machine

/-- LD_VX_DT, Fx07 (R240). -/
def execLdVxDt (x : Reg) (s : State) : Answer := .next (s.setReg x s.dt).advance

/-- LD_DT_VX, Fx15 (R241). -/
def execLdDtVx (x : Reg) (s : State) : Answer := .next (s.setDt (s.reg x)).advance

/-- LD_ST_VX, Fx18 (R242). -/
def execLdStVx (x : Reg) (s : State) : Answer := .next (s.setSt (s.reg x)).advance

/-- SKP, Ex9E: the input provider's answer is free; a number that names no key is refused (R243, R247; log 5, log 10). -/
def execSkp (x : Reg) (s : State) : Answer :=
  match keyNumber (s.reg x) with
  | none => .refused .keyIndexOutOfRange
  | some k => .next (s.spendDraw.skipIf (Config.keyPressed s.draws k))

/-- SKNP, ExA1: as SKP with the condition negated (R244, R247; log 5, log 10). -/
def execSknp (x : Reg) (s : State) : Answer :=
  match keyNumber (s.reg x) with
  | none => .refused .keyIndexOutOfRange
  | some k => .next (s.spendDraw.skipIf (!Config.keyPressed s.draws k))

/-- LD_VX_K, Fx0A: the step enters the wait, `PC` still at this instruction (R245). -/
def execLdVxK (x : Reg) (s : State) : Answer := .next (s.setRs (.awaitingKey x))

/-- `KeyComplete(k)`: a key event completes a wait; it is ignored otherwise (R246, R278). -/
def State.keyPress (k : Key) (s : State) : State :=
  match s.rs with
  | .awaitingKey x => ((s.setReg x (keyByte k)).advance).setRs .running
  | .running => s
  | .faulted _ => s

/-- One timer after one tick, floored at 0 (R271). -/
def tickTimer (t : Byte) : Byte := if t = 0#8 then 0#8 else BitVec.ofNat 8 (t.toNat - 1)

/-- `Tick()` (R271). -/
def State.tick (s : State) : State := (s.setDt (tickTimer s.dt)).setSt (tickTimer s.st)

/-- One timer after n ticks (R271, R272). -/
def tickTimerBy (n : Nat) (t : Byte) : Byte := if t = 0#8 then 0#8 else BitVec.ofNat 8 (t.toNat - n)

/-- n ticks at once (R271, R272). -/
def State.ticks (n : Nat) (s : State) : State := (s.setDt (tickTimerBy n s.dt)).setSt (tickTimerBy n s.st)

/-- The host writes 0 to `DC` (R45, R276, R278). -/
def State.clearDc (s : State) : State := s.setDc false

/-- `DC` after the host, between two CPU transitions, did or did not clear it. -/
def State.clearDcIf (c : Bool) (s : State) : State := s.setDc (if s.dc then !c else false)

/-- What the timer and the host do between this CPU transition and the next: a free number of ticks, a free clear of `DC`
(R130, R272, R278; log 2). -/
def State.environment (s : State) : State :=
  ((s.ticks (Config.ticks s.draws)).clearDcIf (Config.hostClearsDc s.draws)).spendDraw

end Sys2Proof.Machine
end

