-- ==== Sys2Proof/Machine/Cycle.lean ====
section
/-! DEFINITION. The step cycle (`40_step_cycle.md`): the CPU's `Step()`, its transition with a free key event, and the
three agents' moves in any interleaving. -/

namespace Sys2Proof.Machine

/-- A function applied to the state of a next outcome; a fault or a refusal stays as it is. -/
def onNext (f : State → State) : Answer → Answer
  | .next s => .next (f s)
  | .fault k => .fault k
  | .refused r => .refused r

/-- Decode, then execute, a fetched word (R135, R136, R261). -/
def runWord (w : Word) (s : State) : Answer :=
  match decode w with
  | .error _ => raise .unrecognizedOpcode s
  | .ok i => exec i s

/-- `Step()` (R131): fetch, decode and execute while running (R134 to R136), nothing while a key is awaited (R133), the
same error again once faulted (R132). -/
def cpuStep (s : State) : Answer :=
  match s.rs with
  | .faulted k => .fault k
  | .awaitingKey _ => .next s
  | .running =>
    match s.fetch with
    | none => raise .outOfBoundsMemoryAccess s
    | some w => runWord w s

/-- One transition of the CPU: while a key is awaited the key event, if the host has one now, completes the wait (R246) and
else the step returns `Waiting` (R133); otherwise `Step()` (log 3). -/
def cpuTurn (s : State) : Answer :=
  match s.rs with
  | .awaitingKey _ =>
    match Config.keyEvent s.draws with
    | some k => .next (s.keyPress k)
    | none => cpuStep s
  | .running => cpuStep s
  | .faulted _ => cpuStep s

/-- A transition of one of the three agents (R130). -/
inductive Move where
  | cpu
  | tick
  | keyPress (k : Key)
  | clearDc
  deriving DecidableEq, Repr

/-- One agent's transition (R130, R246, R271, R278). -/
def State.move (m : Move) (s : State) : Answer :=
  match m with
  | .cpu => cpuStep s
  | .tick => .next s.tick
  | .keyPress k => .next (s.keyPress k)
  | .clearDc => .next s.clearDc

/-- An interleaving of the agents' transitions, up to the first that stops (R84, R130). -/
def State.moves : List Move → State → Answer
  | [], s => .next s
  | m :: rest, s =>
    match s.move m with
    | .next t => State.moves rest t
    | .fault k => .fault k
    | .refused r => .refused r

/-- Where the next instruction can be fetched: `PC` itself, or the entry point where `PC` addresses no word (R134, R293). -/
def State.fetchPoint (s : State) : Word := if rangeInMemory s.pc.toNat 2 then s.pc else 0x200#16

/-- The state with an instruction word stored, high byte first, where the next fetch reads it, the CPU running (R77, R131). -/
def State.placeWord (s : State) (w : Word) : State :=
  ((s.setMem (s.mem.putRange s.fetchPoint.toNat [highByte w, lowByte w])).setPc s.fetchPoint).setRs .running

end Sys2Proof.Machine
end

