-- ==== Sys2Proof/Machine/Step.lean ====
section
/-! DEFINITION. The step: one transition of the CPU, then what the timer and the host do before the next. -/

namespace Sys2Proof.Machine

/-- One step of the machine (R130, R131; log 2, log 3). -/
def step (s : State) : Host.Outcome State Fault Refusal := onNext State.environment (cpuTurn s)

/-- The state with an opcode-table word placed where the next step fetches it. -/
def State.withFetchWord (s : State) (nbits w : Nat) : State := s.placeWord (BitVec.ofNat 16 (w % 2 ^ nbits))

end Sys2Proof.Machine
end

