-- ==== Sys2Proof/Safety.lean ====
section
/-! DEFINITION. What counts as a good state and as the end of a run, in the terms claims use. -/

namespace Sys2Proof.Machine

/-- Every address on the stack is that of a fetched CALL, so at most 4094 (R38, R39). -/
abbrev State.stackAddressesFetched (s : State) : Prop := ∀ k : Fin 16, k.val < s.sp.val → (s.stack[k.val]).toNat ≤ 4094

/-- While key x is awaited, `PC` still holds the address of that Fx0A (R47, R245). -/
abbrev State.waitingAtInstruction (s : State) : Prop :=
  ∀ x : Reg, s.rs = .awaitingKey x → s.fetch.map decode = some (.ok (.ldVxK x))

/-- The invariant of every run: memory in canonical form, `PC` at most 0x10FE (R38), the stack holding
addresses of fetched instructions (R38, R39), a key wait standing at its instruction (R47). -/
structure State.Inv (s : State) : Prop where
  memory : s.mem.wf
  pcBound : s.pc.toNat ≤ 0x10FE
  stackAddresses : s.stackAddressesFetched
  waiting : s.waitingAtInstruction

/-- The run failed: `RS` = `Faulted(kind)` (R301, case 1). -/
def State.hasFaulted (s : State) : Bool :=
  match s.rs with
  | .faulted _ => true
  | .awaitingKey _ => false
  | .running => false

/-- The idle loop: running, and the word at `PC` is a JP to `PC` itself (R301, case 2). -/
def State.idles (s : State) : Bool :=
  match s.rs, s.fetch with
  | .running, some w => decide (decode w = .ok (.jp s.pc))
  | .running, none => false
  | .awaitingKey _, _ => false
  | .faulted _, _ => false

/-- The end of a run, less the refusal, which is an outcome and not a state (R301). A wait for a key is no end. -/
def State.ended (s : State) : Bool := s.hasFaulted || s.idles

/-- A step is safe when it neither stops nor records a fatal error. -/
def State.stepSafe (s : State) : Prop := ∃ t, step s = .next t ∧ t.hasFaulted = false

end Sys2Proof.Machine
end

