-- ==== Sys2Proof/Certificates/Slice0/Obligations.lean ====
section
/-! DEFINITION. The statements for the provers, each `def Obligations.<Name> : Prop`, and the few predicates they share.
Rule numbers are those of `spec/`; "log n" is `notes/assumptions/n.md`; D<n> and I<n> are the spec's own decisions. -/

namespace Sys2Proof.Machine

/-- The parts of the state a frame speaks of, beside the general registers and `PC`. -/
inductive Part where
  | memory
  | index
  | stackEntries
  | depth
  | delay
  | sound
  | frameBuffer
  | displayChanged
  | fading
  | runState
  | draws
  deriving DecidableEq, Repr

/-- The frame: from `s` to `t` every general register but those listed, and every part but those listed, is unchanged.
`PC` may change; the parameter `edge` never does. Memory is compared byte by byte as it reads. -/
structure Keeps (changed : List Part) (regs : List Reg) (s t : State) : Prop where
  registers : ∀ r : Reg, r ∉ regs → t.reg r = s.reg r
  memory : Part.memory ∉ changed → ∀ a : Nat, t.readByte a = s.readByte a
  index : Part.index ∉ changed → t.i = s.i
  stackEntries : Part.stackEntries ∉ changed → t.stack = s.stack
  depth : Part.depth ∉ changed → t.sp = s.sp
  delay : Part.delay ∉ changed → t.dt = s.dt
  sound : Part.sound ∉ changed → t.st = s.st
  frameBuffer : Part.frameBuffer ∉ changed → t.fb = s.fb
  displayChanged : Part.displayChanged ∉ changed → t.dc = s.dc
  fading : Part.fading ∉ changed → t.fade = s.fade
  runState : Part.runState ∉ changed → t.rs = s.rs
  draws : Part.draws ∉ changed → t.draws = s.draws
  edge : t.edge = s.edge

/-- The instruction's word lies in the opcode-map row of this mask and match, and decodes to it (R103, R104). Every term
that a word can hold is meant; a term that none can hold is never decoded. -/
def EncodedAs (i : Instr) (mask row : Word) : Prop :=
  i.wellFormed = true → i.encode &&& mask = row ∧ decode i.encode = .ok i

/-- The n bytes from `base` lie in memory (R14, R76). -/
def InMemory (base n : Nat) : Prop := n = 0 ∨ base + n ≤ 4096

/-- What each instruction may write beside general registers and `PC`: the second column of R33, and `RS` for the
instructions that can raise an error; `draws` is the model's own count of free values (log 6). -/
def writtenParts : Instr → List Part
  | .cls => [.frameBuffer, .displayChanged]
  | .ret => [.depth, .runState]
  | .call _ => [.stackEntries, .depth, .runState]
  | .jp _ | .jpV0 _ => []
  | .seImm _ _ | .sneImm _ _ | .seReg _ _ | .sneReg _ _ => []
  | .ldImm _ _ | .addImm _ _ | .ldReg _ _ | .orReg _ _ | .andReg _ _ | .xorReg _ _ => []
  | .addReg _ _ | .sub _ _ | .shr _ _ | .subn _ _ | .shl _ _ => []
  | .rnd _ _ => [.draws]
  | .ldI _ | .addIVx _ | .ldFVx _ => [.index]
  | .drw _ _ _ => [.frameBuffer, .fading, .displayChanged, .runState]
  | .skp _ | .sknp _ => [.draws]
  | .ldVxDt _ => []
  | .ldVxK _ => [.runState]
  | .ldDtVx _ => [.delay]
  | .ldStVx _ => [.sound]
  | .ldBVx _ | .ldMemVx _ => [.memory, .runState]
  | .ldVxMem _ => [.runState]

/-- Which general registers each instruction may write: the second column of R33. -/
def writtenRegs : Instr → List Reg
  | .ldImm x _ | .addImm x _ | .ldReg x _ | .orReg x _ | .andReg x _ | .xorReg x _ | .rnd x _ | .ldVxDt x => [x]
  | .addReg x _ | .sub x _ | .shr x _ | .subn x _ | .shl x _ => [x, 15]
  | .drw _ _ _ => [15]
  | .ldVxMem x => (List.finRange 16).filter (fun r => r.val ≤ x.val)
  | .cls | .ret | .jp _ | .call _ | .jpV0 _ | .seImm _ _ | .sneImm _ _ | .seReg _ _ | .sneReg _ _ => []
  | .ldI _ | .addIVx _ | .ldFVx _ | .skp _ | .sknp _ | .ldVxK _ | .ldDtVx _ | .ldStVx _ | .ldBVx _ | .ldMemVx _ => []

/-- The value of the byte at address a after the n values `stored 0`, `stored 1`, … are stored from `I` up (R203, R204). -/
def byteAfterStore (s : State) (n : Nat) (stored : Nat → Nat) (a : Nat) : Nat :=
  if s.i.toNat ≤ a ∧ a < s.i.toNat + n then stored (a - s.i.toNat) else (s.readByte a).toNat

/-- How many bytes from `I` up each instruction stores: `MEM[I..I+2]` and `MEM[I..I+x]` of R33, none for the others. -/
def storedLength (s : State) : Instr → Nat
  | .ldBVx x => (decimalDigits (s.reg x)).length
  | .ldMemVx x => (s.regsThrough x).length
  | .cls | .ret | .jp _ | .call _ | .jpV0 _ | .seImm _ _ | .sneImm _ _ | .seReg _ _ | .sneReg _ _ => 0
  | .ldImm _ _ | .addImm _ _ | .ldReg _ _ | .orReg _ _ | .andReg _ _ | .xorReg _ _ | .rnd _ _ => 0
  | .addReg _ _ | .sub _ _ | .shr _ _ | .subn _ _ | .shl _ _ => 0
  | .ldI _ | .addIVx _ | .ldFVx _ | .drw _ _ _ | .skp _ | .sknp _ | .ldVxDt _ | .ldVxK _ => 0
  | .ldDtVx _ | .ldStVx _ | .ldVxMem _ => 0

/-- Whether a sprite of n rows read from `I`, started at (`V[x]` mod 64, `V[y]` mod 32), has a set pixel at column c and
row r of the screen, pixels past an edge dropped (R221 to R223). -/
def spritePixel (s : State) (x y : Reg) (n c r : Nat) : Bool :=
  let x0 := (s.reg x).toNat % 64
  let y0 := (s.reg y).toNat % 32
  decide (y0 ≤ r ∧ r < y0 + n ∧ x0 ≤ c ∧ c < x0 + 8) && (s.readByte (s.i.toNat + (r - y0))).getLsbD (7 - (c - x0))

/-- The same with the rows past row 31 drawn from row 0 on, and, if `columns` is set, the columns past column 63 from
column 0 on (I3). -/
def spritePixelWrapped (columns : Bool) (s : State) (x y : Reg) (n c r : Nat) : Bool :=
  let x0 := (s.reg x).toNat % 64
  let y0 := (s.reg y).toNat % 32
  let dr := (r + 32 - y0) % 32
  let dc := if columns then (c + 64 - x0) % 64 else c - x0
  decide (dr < n ∧ (columns = true ∨ x0 ≤ c) ∧ dc < 8) && (s.readByte (s.i.toNat + dr)).getLsbD (7 - dc)

end Sys2Proof.Machine

open Sys2Proof Sys2Proof.Machine

/-! ### Encoding -/

/-- Words written out from the patterns of R104, one or more of every family, decode to what they stand for; two
words of no row do not decode. -/
def Obligations.DecodeSampleWords : Prop :=
  decode 0x00E0#16 = .ok .cls ∧ decode 0x00EE#16 = .ok .ret ∧ decode 0x1250#16 = .ok (.jp 0x250#16) ∧
  decode 0x2ABC#16 = .ok (.call 0xABC#16) ∧ decode 0x3342#16 = .ok (.seImm 3 0x42#8) ∧
  decode 0x4342#16 = .ok (.sneImm 3 0x42#8) ∧ decode 0x5120#16 = .ok (.seReg 1 2) ∧
  decode 0x6A42#16 = .ok (.ldImm 10 0x42#8) ∧ decode 0x7003#16 = .ok (.addImm 0 0x03#8) ∧
  decode 0x9120#16 = .ok (.sneReg 1 2) ∧ decode 0xA300#16 = .ok (.ldI 0x300#16) ∧
  decode 0xB123#16 = .ok (.jpV0 0x123#16) ∧ decode 0xC40F#16 = .ok (.rnd 4 0x0F#8) ∧
  decode 0x8127#16 = .ok (.subn 1 2) ∧ decode 0x800E#16 = .ok (.shl 0 0) ∧
  decode 0xD015#16 = .ok (.drw 0 1 5) ∧ decode 0xE29E#16 = .ok (.skp 2) ∧ decode 0xF30A#16 = .ok (.ldVxK 3) ∧
  decode 0xF265#16 = .ok (.ldVxMem 2) ∧ decode 0x5121#16 = .error (.unrecognizedOpcode 0x5121#16) ∧
  decode 0x0000#16 = .error (.unrecognizedOpcode 0x0000#16)

/-- Decoding the word, or the bytes, of any well-formed instruction gives it back with every operand (R103, R104). -/
def Obligations.DecodeOfEncode : Prop :=
  ∀ i : Instr, i.wellFormed = true →
    decode i.encode = .ok i ∧ ∀ rest : List Byte, decodeBytes (i.bytes ++ rest) = .ok (i, rest)

/-- A word that decodes is the word of the instruction it decodes to, which is well formed: no bit is lost (R101, R103). -/
def Obligations.EncodeOfDecode : Prop :=
  ∀ (w : Word) (i : Instr), decode w = .ok i → i.wellFormed = true ∧ i.encode = w

/-- Families 0x0, 0x5 and 0x9: two instructions in the first, one each in the others, n4 = 0 (R105, R107). -/
def Obligations.FamiliesZeroFiveNine : Prop :=
  (∀ w : Word, w.toNat < 0x1000 → decode w =
    if w = 0x00E0#16 then .ok .cls else if w = 0x00EE#16 then .ok .ret else .error (.unrecognizedOpcode w)) ∧
  (∀ (x y : Reg) (n4 : Nat) (w : Word), n4 < 16 →
    (w = BitVec.ofNat 16 (0x5000 + 256 * x.val + 16 * y.val + n4) →
      decode w = if n4 = 0 then .ok (.seReg x y) else .error (.unrecognizedOpcode w)) ∧
    (w = BitVec.ofNat 16 (0x9000 + 256 * x.val + 16 * y.val + n4) →
      decode w = if n4 = 0 then .ok (.sneReg x y) else .error (.unrecognizedOpcode w)))

/-- Families 0x1, 0x2, 0x3, 0x4, 0x6, 0x7, 0xA, 0xB, 0xC, 0xD: one instruction each, all 4096 words valid (R106). -/
def Obligations.FamiliesOfOneInstruction : Prop :=
  (∀ a : Nat, a < 4096 →
    decode (BitVec.ofNat 16 (0x1000 + a)) = .ok (.jp (BitVec.ofNat 16 a)) ∧
    decode (BitVec.ofNat 16 (0x2000 + a)) = .ok (.call (BitVec.ofNat 16 a)) ∧
    decode (BitVec.ofNat 16 (0xA000 + a)) = .ok (.ldI (BitVec.ofNat 16 a)) ∧
    decode (BitVec.ofNat 16 (0xB000 + a)) = .ok (.jpV0 (BitVec.ofNat 16 a))) ∧
  (∀ (x : Reg) (kk : Byte),
    decode (BitVec.ofNat 16 (0x3000 + 256 * x.val + kk.toNat)) = .ok (.seImm x kk) ∧
    decode (BitVec.ofNat 16 (0x4000 + 256 * x.val + kk.toNat)) = .ok (.sneImm x kk) ∧
    decode (BitVec.ofNat 16 (0x6000 + 256 * x.val + kk.toNat)) = .ok (.ldImm x kk) ∧
    decode (BitVec.ofNat 16 (0x7000 + 256 * x.val + kk.toNat)) = .ok (.addImm x kk) ∧
    decode (BitVec.ofNat 16 (0xC000 + 256 * x.val + kk.toNat)) = .ok (.rnd x kk)) ∧
  (∀ (x y : Reg) (n : Nat), n < 16 →
    decode (BitVec.ofNat 16 (0xD000 + 256 * x.val + 16 * y.val + n)) = .ok (.drw x y n))

/-- Families 0x8, 0xE and 0xF: which n4, or which low byte, selects which instruction, every other one unrecognized; the y
of SHR and SHL is not used by the operation (R108, R109, R110). -/
def Obligations.FamiliesEightEF : Prop :=
  (∀ (x y : Reg) (n4 : Nat) (w : Word), n4 < 16 → w = BitVec.ofNat 16 (0x8000 + 256 * x.val + 16 * y.val + n4) →
    decode w =
      if n4 = 0 then .ok (.ldReg x y) else if n4 = 1 then .ok (.orReg x y) else if n4 = 2 then .ok (.andReg x y)
      else if n4 = 3 then .ok (.xorReg x y) else if n4 = 4 then .ok (.addReg x y) else if n4 = 5 then .ok (.sub x y)
      else if n4 = 6 then .ok (.shr x y) else if n4 = 7 then .ok (.subn x y) else if n4 = 0xE then .ok (.shl x y)
      else .error (.unrecognizedOpcode w)) ∧
  (∀ (x y y' : Reg) (s : State), exec (.shr x y) s = exec (.shr x y') s ∧ exec (.shl x y) s = exec (.shl x y') s) ∧
  (∀ (x : Reg) (low : Nat) (w : Word), low < 256 → w = BitVec.ofNat 16 (0xE000 + 256 * x.val + low) →
    decode w =
      if low = 0x9E then .ok (.skp x) else if low = 0xA1 then .ok (.sknp x) else .error (.unrecognizedOpcode w)) ∧
  (∀ (x : Reg) (low : Nat) (w : Word), low < 256 → w = BitVec.ofNat 16 (0xF000 + 256 * x.val + low) →
    decode w =
      if low = 0x07 then .ok (.ldVxDt x) else if low = 0x0A then .ok (.ldVxK x) else if low = 0x15 then .ok (.ldDtVx x)
      else if low = 0x18 then .ok (.ldStVx x) else if low = 0x1E then .ok (.addIVx x)
      else if low = 0x29 then .ok (.ldFVx x) else if low = 0x33 then .ok (.ldBVx x)
      else if low = 0x55 then .ok (.ldMemVx x) else if low = 0x65 then .ok (.ldVxMem x)
      else .error (.unrecognizedOpcode w))

/-! ### Fetch, step and agents -/

/-- A fetch reads the byte at `PC` as the high byte and the byte at `PC + 1` as the low byte, at any `PC` up to 4094, odd
or even; above it the step raises `OutOfBoundsMemoryAccess` and changes nothing else (R77, R134). That an odd `PC` is
fetched is the spec's own decision D2 (R79, log 21); that nothing else changes is its decision D3 (R139, log 13); the error
as a next state is log 1. -/
def Obligations.FetchIsBigEndian : Prop :=
  ∀ s : State,
    (s.pc.toNat ≤ 4094 →
      ∃ w, s.fetch = some w ∧ w.toNat = (s.readByte s.pc.toNat).toNat * 256 + (s.readByte (s.pc.toNat + 1)).toNat) ∧
    (4095 ≤ s.pc.toNat → s.fetch = none ∧
      (s.rs = .running → cpuStep s = .next (s.setRs (.faulted .outOfBoundsMemoryAccess))))

/-- While running, when the two bytes at `PC` decode to i, a step is the execute stage of i and then the moves of the timer
and the host on the state it gave (R131, R135). Those moves: both timers lose the same number of ticks, floored at 0, `DC`
stays or is cleared, nothing else changes but the count of free values (R271, R272, R278; log 2, log 6). -/
def Obligations.StepRunsDecodedInstruction : Prop :=
  (∀ (s : State) (i : Instr) (rest : List Byte), s.rs = .running → s.pc.toNat ≤ 4094 →
    decodeBytes [s.readByte s.pc.toNat, s.readByte (s.pc.toNat + 1)] = .ok (i, rest) →
    cpuStep s = exec i s ∧
    step s = match exec i s with
      | .next t => .next t.environment
      | .fault k => .fault k
      | .refused r => .refused r) ∧
  (∀ s : State,
    Keeps [.delay, .sound, .displayChanged, .draws] [] s s.environment ∧ s.environment.pc = s.pc ∧
    (∃ n : Nat, s.environment.dt.toNat = s.dt.toNat - n ∧ s.environment.st.toNat = s.st.toNat - n) ∧
    (s.environment.dc = true → s.dc = true) ∧ s.environment.draws = s.draws + 1)

/-- A tick takes one from each timer that is above 0, reads and writes nothing else, in every run state; n ticks at once
are n ticks one after another (R271). -/
def Obligations.TickDecrementsTimers : Prop :=
  ∀ s : State,
    s.tick.dt.toNat = s.dt.toNat - 1 ∧ s.tick.st.toNat = s.st.toNat - 1 ∧
    Keeps [.delay, .sound] [] s s.tick ∧ s.tick.pc = s.pc ∧
    ∀ n : Nat, s.ticks n = State.tick^[n] s

/-- Every step is an interleaving of the three agents' transitions: one of the CPU, which is `Step()` or the completion of a
key wait, then some ticks, then at most one clear of `DC` (R130). The order, ticks and then the clear, is log 2; the free key
event is log 3; the count of free values is the model's own (log 6). -/
def Obligations.StepIsInterleaving : Prop :=
  ∀ s t : State, step s = .next t →
    ∃ (m : Move) (n : Nat) (c : List Move) (u : State),
      (m = .cpu ∨ ∃ x k, s.rs = .awaitingKey x ∧ m = .keyPress k) ∧ (c = [] ∨ c = [.clearDc]) ∧
      s.moves (m :: (List.replicate n Move.tick ++ c)) = .next u ∧ t = u.spendDraw

/-- `Faulted` is terminal: a step there answers the same error, and a key event or a tick leaves it (R132, R268; the
spec's own decision D4, log 14). -/
def Obligations.FaultedIsTerminal : Prop :=
  ∀ (s : State) (k : Fault), s.rs = .faulted k →
    cpuStep s = .fault k ∧ step s = .fault k ∧ (∀ key : Key, s.keyPress key = s) ∧ s.tick.rs = .faulted k

/-- While a key is awaited a `Step()` changes nothing and returns `Waiting`, and the timer keeps ticking; without a key event
a step of the machine leaves everything but the timers, `DC` and the count of free values, and only a key event ends the
wait (R133). The clause on a step of the machine rests on the model's choices: free ticks and a free clear of `DC` (log 2), a
free key event (log 3), the count of free values (log 6). -/
def Obligations.WaitingStepChangesNothing : Prop :=
  ∀ (s : State) (x : Reg), s.rs = .awaitingKey x →
    cpuStep s = .next s ∧ s.result = .waiting ∧ s.tick.rs = .awaitingKey x ∧ s.clearDc.rs = .awaitingKey x ∧
    s.tick.dt.toNat = s.dt.toNat - 1 ∧ s.tick.st.toNat = s.st.toNat - 1 ∧
    (Config.keyEvent s.draws = none → ∃ t, step s = .next t ∧ t.rs = .awaitingKey x ∧ t.pc = s.pc ∧
      Keeps [.delay, .sound, .displayChanged, .draws] [] s t)

/-- A key event k completes a wait for register x: `V[x]` is k, `PC` moves on by 2, the CPU runs again, nothing else
changes; it is ignored in every other run state (R246, R278; the spec's own decision D9, log 3). That a step with a free key
event is this and then the environment's moves is log 2 and log 3. -/
def Obligations.KeyEventCompletesWait : Prop :=
  ∀ (s : State) (k : Key),
    (∀ x : Reg, s.rs = .awaitingKey x →
      ((s.keyPress k).reg x).toNat = k.val ∧ (s.keyPress k).pc = s.pc + 2#16 ∧ (s.keyPress k).rs = .running ∧
      Keeps [.runState] [x] s (s.keyPress k) ∧
      (Config.keyEvent s.draws = some k → step s = .next (s.keyPress k).environment)) ∧
    ((∀ x : Reg, s.rs ≠ .awaitingKey x) → s.keyPress k = s)

/-- From the run state `Running` the execute stage leaves `Running`, but for Fx0A, which enters the wait, and the
instructions that can raise an error, each only its own (R140, R260, R266, R299; the error as a next state is log 1). -/
def Obligations.RunStateAfterExecute : Prop :=
  ∀ (i : Instr) (s t : State), s.rs = .running → exec i s = .next t →
    t.rs = .running ∨
    (∃ x, i = .ldVxK x ∧ t.rs = .awaitingKey x) ∨
    (∃ nnn, i = .call nnn ∧ t.rs = .faulted .stackOverflow) ∨
    (i = .ret ∧ t.rs = .faulted .stackUnderflow) ∨
    (((∃ x y n, i = .drw x y n) ∨ (∃ x, i = .ldBVx x) ∨ (∃ x, i = .ldMemVx x) ∨ (∃ x, i = .ldVxMem x)) ∧
      t.rs = .faulted .outOfBoundsMemoryAccess)

/-- A `Step()` that raises an error writes only `RS` (R139; the precision is the spec's own decision D3, log 13). -/
def Obligations.FaultsArePrecise : Prop :=
  ∀ (s t : State) (k : Fault), s.rs = .running → cpuStep s = .next t → t.rs = .faulted k → t = s.setRs (.faulted k)

/-- A fetched word that decodes to no instruction raises `UnrecognizedOpcode` (R261). The error as a next state is log 1;
that nothing else changes is the spec's own decision D3 (R139, log 13). -/
def Obligations.IllegalWordRaises : Prop :=
  ∀ (s : State) (w : Word), s.rs = .running → s.fetch = some w → (∀ i : Instr, decode w ≠ .ok i) →
    cpuStep s = .next (s.setRs (.faulted .unrecognizedOpcode))

/-- Only SKP and SKNP are ever refused, only with `V[x]` >= 16, and no execute stage stops with a fault: errors are taken as
next states (R141, R247; the refusal is the spec's own decision D8, log 10; the next state is log 1). -/
def Obligations.OnlyKeyNumbersAreRefused : Prop :=
  (∀ (x : Reg) (s : State), 16 ≤ (s.reg x).toNat →
    exec (.skp x) s = .refused .keyIndexOutOfRange ∧ exec (.sknp x) s = .refused .keyIndexOutOfRange) ∧
  (∀ (i : Instr) (s : State) (r : Refusal), exec i s = .refused r →
    r = .keyIndexOutOfRange ∧ ∃ x, (i = .skp x ∨ i = .sknp x) ∧ 16 ≤ (s.reg x).toNat) ∧
  (∀ (i : Instr) (s : State) (k : Fault), exec i s ≠ .fault k)

/-! ### Control transfer -/

/-- JP sets `PC` to nnn and nothing else; a jump to itself changes nothing; after a jump to 0xFFF the fetch finds no word
(R150). -/
def Obligations.JumpCompletes : Prop :=
  ∀ (nnn : Word) (s : State), EncodedAs (.jp nnn) 0xF000#16 0x1000#16 ∧
    ∃ t, exec (.jp nnn) s = .next t ∧ t.pc = nnn ∧ Keeps [] [] s t ∧
      (nnn = s.pc → t = s) ∧ (nnn = 0xFFF#16 → t.fetch = none)

/-- JP_V0 sets `PC` to V0 + nnn, not reduced, whatever n2 is (R153). -/
def Obligations.JumpV0Completes : Prop :=
  ∀ (nnn : Word) (s : State), addressFits nnn = true → EncodedAs (.jpV0 nnn) 0xF000#16 0xB000#16 ∧
    ∃ t, exec (.jpV0 nnn) s = .next t ∧ t.pc.toNat = (s.reg 0).toNat + nnn.toNat ∧ Keeps [] [] s t

/-- CALL with room on the stack pushes its own address and jumps; after a call to 0xFFF the push stands and the fetch finds no
word; with 16 entries it raises `StackOverflow` and changes nothing else (R151, R262). That an entry holds the CALL's own
address is the spec's own decision D28 (log 19); that the error changes nothing else is D3 (log 13), and its form as a next
state is log 1. -/
def Obligations.CallPushes : Prop :=
  ∀ (nnn : Word) (s : State), EncodedAs (.call nnn) 0xF000#16 0x2000#16 ∧
    (s.sp.val < 16 → ∃ t, exec (.call nnn) s = .next t ∧ t.stack[s.sp.val]? = some s.pc ∧
      (∀ k : Nat, k ≠ s.sp.val → t.stack[k]? = s.stack[k]?) ∧ t.sp.val = s.sp.val + 1 ∧ t.pc = nnn ∧
      Keeps [.stackEntries, .depth] [] s t ∧ (nnn = 0xFFF#16 → t.fetch = none)) ∧
    (s.sp.val = 16 → exec (.call nnn) s = .next (s.setRs (.faulted .stackOverflow)))

/-- RET with entries on the stack goes on 2 past the address on top, which keeps its value (R152; the kept value is the
spec's own decision D28, log 19). -/
def Obligations.ReturnPops : Prop :=
  EncodedAs .ret 0xFFFF#16 0x00EE#16 ∧
  ∀ (s : State) (w : Word), s.sp.val ≠ 0 → s.stack[s.sp.val - 1]? = some w →
    ∃ t, exec .ret s = .next t ∧ t.pc = w + 2#16 ∧ t.sp.val = s.sp.val - 1 ∧ Keeps [.depth] [] s t

/-- RET with an empty stack raises `StackUnderflow` (R263). The error as a next state is log 1; that nothing else changes is
the spec's own decision D3 (R139, log 13). -/
def Obligations.ReturnOnEmptyStackRaises : Prop :=
  ∀ s : State, s.sp.val = 0 → exec .ret s = .next (s.setRs (.faulted .stackUnderflow))

/-- A CALL and then, after anything that keeps the stack, a RET: on at the instruction after the CALL, the depth as before
(R151, R152). -/
def Obligations.CallThenReturn : Prop :=
  ∀ (nnn : Word) (s : State), s.sp.val < 16 →
    ∃ t, exec (.call nnn) s = .next t ∧
      ∀ u : State, u.stack = t.stack → u.sp = t.sp →
        ∃ v, exec .ret u = .next v ∧ v.pc = s.pc + 2#16 ∧ v.sp = s.sp

/-- The four skips on registers: by 4 when the condition holds, else by 2, and nothing else (R154 to R157). -/
def Obligations.SkipsOnRegisters : Prop :=
  (∀ (x : Reg) (kk : Byte) (s : State),
    EncodedAs (.seImm x kk) 0xF000#16 0x3000#16 ∧ EncodedAs (.sneImm x kk) 0xF000#16 0x4000#16 ∧
    (∃ t, exec (.seImm x kk) s = .next t ∧ Keeps [] [] s t ∧
      (s.reg x = kk → t.pc = s.pc + 4#16) ∧ (s.reg x ≠ kk → t.pc = s.pc + 2#16)) ∧
    (∃ t, exec (.sneImm x kk) s = .next t ∧ Keeps [] [] s t ∧
      (s.reg x ≠ kk → t.pc = s.pc + 4#16) ∧ (s.reg x = kk → t.pc = s.pc + 2#16))) ∧
  (∀ (x y : Reg) (s : State),
    EncodedAs (.seReg x y) 0xF00F#16 0x5000#16 ∧ EncodedAs (.sneReg x y) 0xF00F#16 0x9000#16 ∧
    (∃ t, exec (.seReg x y) s = .next t ∧ Keeps [] [] s t ∧
      (s.reg x = s.reg y → t.pc = s.pc + 4#16) ∧ (s.reg x ≠ s.reg y → t.pc = s.pc + 2#16)) ∧
    (∃ t, exec (.sneReg x y) s = .next t ∧ Keeps [] [] s t ∧
      (s.reg x ≠ s.reg y → t.pc = s.pc + 4#16) ∧ (s.reg x = s.reg y → t.pc = s.pc + 2#16)))

/-! ### Register loads and arithmetic -/

/-- LD_IMM, ADD_IMM and LD_REG write `V[x]`, with no flag: VF changes only as the destination (R172, R173, R174). -/
def Obligations.LoadsAndImmediateAdd : Prop :=
  (∀ (x : Reg) (kk : Byte) (s : State),
    EncodedAs (.ldImm x kk) 0xF000#16 0x6000#16 ∧ EncodedAs (.addImm x kk) 0xF000#16 0x7000#16 ∧
    (∃ t, exec (.ldImm x kk) s = .next t ∧ t.reg x = kk ∧ t.pc = s.pc + 2#16 ∧ Keeps [] [x] s t) ∧
    (∃ t, exec (.addImm x kk) s = .next t ∧ (t.reg x).toNat = ((s.reg x).toNat + kk.toNat) % 256 ∧
      t.pc = s.pc + 2#16 ∧ Keeps [] [x] s t)) ∧
  (∀ (x y : Reg) (s : State), EncodedAs (.ldReg x y) 0xF00F#16 0x8000#16 ∧
    ∃ t, exec (.ldReg x y) s = .next t ∧ t.reg x = s.reg y ∧ t.pc = s.pc + 2#16 ∧ Keeps [] [x] s t)

/-- OR, AND and XOR act bit by bit and do not reset VF (R175, R176, R177). -/
def Obligations.LogicHasNoFlag : Prop :=
  ∀ (x y : Reg) (s : State),
    EncodedAs (.orReg x y) 0xF00F#16 0x8001#16 ∧ EncodedAs (.andReg x y) 0xF00F#16 0x8002#16 ∧
    EncodedAs (.xorReg x y) 0xF00F#16 0x8003#16 ∧
    (∃ t, exec (.orReg x y) s = .next t ∧ t.pc = s.pc + 2#16 ∧ Keeps [] [x] s t ∧
      ∀ b : Nat, b < 8 → (t.reg x).getLsbD b = ((s.reg x).getLsbD b || (s.reg y).getLsbD b)) ∧
    (∃ t, exec (.andReg x y) s = .next t ∧ t.pc = s.pc + 2#16 ∧ Keeps [] [x] s t ∧
      ∀ b : Nat, b < 8 → (t.reg x).getLsbD b = ((s.reg x).getLsbD b && (s.reg y).getLsbD b)) ∧
    (∃ t, exec (.xorReg x y) s = .next t ∧ t.pc = s.pc + 2#16 ∧ Keeps [] [x] s t ∧
      ∀ b : Nat, b < 8 → (t.reg x).getLsbD b = ((s.reg x).getLsbD b ^^ (s.reg y).getLsbD b))

/-- ADD_REG: the sum modulo 256 in `V[x]`, the carry in VF (R178). That VF holds the carry alone when x = 0xF is the spec's
own decision D7 (R171, C6; log 24). -/
def Obligations.AddSetsCarry : Prop :=
  ∀ (x y : Reg) (s : State), EncodedAs (.addReg x y) 0xF00F#16 0x8004#16 ∧
    ∃ t, exec (.addReg x y) s = .next t ∧ t.pc = s.pc + 2#16 ∧ Keeps [] [x, 15] s t ∧
      (x ≠ 15 → (t.reg x).toNat = ((s.reg x).toNat + (s.reg y).toNat) % 256) ∧
      ((s.reg x).toNat + (s.reg y).toNat > 255 → t.reg 15 = 1#8) ∧
      ((s.reg x).toNat + (s.reg y).toNat ≤ 255 → t.reg 15 = 0#8)

/-- SUB and SUBN: the difference modulo 256 in `V[x]`, VF 1 when no borrow occurs, equality included (R179, R181).
That VF holds the flag also when x = 0xF is the spec's own decision D7 (R171, C6; log 24). -/
def Obligations.SubtractSetsNoBorrow : Prop :=
  ∀ (x y : Reg) (s : State),
    EncodedAs (.sub x y) 0xF00F#16 0x8005#16 ∧ EncodedAs (.subn x y) 0xF00F#16 0x8007#16 ∧
    (∃ t, exec (.sub x y) s = .next t ∧ t.pc = s.pc + 2#16 ∧ Keeps [] [x, 15] s t ∧
      (x ≠ 15 → ((t.reg x).toNat : Int) = ((s.reg x).toNat - (s.reg y).toNat : Int) % 256) ∧
      ((s.reg y).toNat ≤ (s.reg x).toNat → t.reg 15 = 1#8) ∧ ((s.reg x).toNat < (s.reg y).toNat → t.reg 15 = 0#8)) ∧
    (∃ t, exec (.subn x y) s = .next t ∧ t.pc = s.pc + 2#16 ∧ Keeps [] [x, 15] s t ∧
      (x ≠ 15 → ((t.reg x).toNat : Int) = ((s.reg y).toNat - (s.reg x).toNat : Int) % 256) ∧
      ((s.reg x).toNat ≤ (s.reg y).toNat → t.reg 15 = 1#8) ∧ ((s.reg y).toNat < (s.reg x).toNat → t.reg 15 = 0#8))

/-- SHR and SHL shift `V[x]` in place, whatever y is; VF is the bit shifted out (R180, R182). That VF holds that bit also
when x = 0xF is the spec's own decision D7 (R171, C6; log 24). -/
def Obligations.ShiftsSetBitOut : Prop :=
  ∀ (x y : Reg) (s : State),
    EncodedAs (.shr x y) 0xF00F#16 0x8006#16 ∧ EncodedAs (.shl x y) 0xF00F#16 0x800E#16 ∧
    (∃ t, exec (.shr x y) s = .next t ∧ t.pc = s.pc + 2#16 ∧ Keeps [] [x, 15] s t ∧
      (x ≠ 15 → (t.reg x).toNat = (s.reg x).toNat / 2) ∧ (t.reg 15).toNat = (s.reg x).toNat % 2) ∧
    (∃ t, exec (.shl x y) s = .next t ∧ t.pc = s.pc + 2#16 ∧ Keeps [] [x, 15] s t ∧
      (x ≠ 15 → (t.reg x).toNat = (s.reg x).toNat * 2 % 256) ∧ (t.reg 15).toNat = (s.reg x).toNat / 128)

/-- RND: the free byte of this draw ANDed with kk, so a subset of kk's bits; the next draw is another (R183, R277; the byte is
free by D21, log 4). It holds for every value of the free byte. -/
def Obligations.RandomIsMasked : Prop :=
  ∀ (x : Reg) (kk : Byte) (s : State), EncodedAs (.rnd x kk) 0xF000#16 0xC000#16 ∧
    ∃ t, exec (.rnd x kk) s = .next t ∧ t.reg x = Config.randomByte s.draws &&& kk ∧ t.reg x ||| kk = kk ∧
      t.draws = s.draws + 1 ∧ t.pc = s.pc + 2#16 ∧ Keeps [.draws] [x] s t

/-! ### Index register and memory -/

/-- LD_I and LD_F_VX: `I` is nnn; `I` is 0x050 + 5 times the whole of `V[x]` (R200, R202). -/
def Obligations.IndexLoads : Prop :=
  (∀ (nnn : Word) (s : State), EncodedAs (.ldI nnn) 0xF000#16 0xA000#16 ∧
    ∃ t, exec (.ldI nnn) s = .next t ∧ t.i = nnn ∧ t.pc = s.pc + 2#16 ∧ Keeps [.index] [] s t) ∧
  (∀ (x : Reg) (s : State), EncodedAs (.ldFVx x) 0xF0FF#16 0xF029#16 ∧
    ∃ t, exec (.ldFVx x) s = .next t ∧ t.i.toNat = 0x050 + 5 * (s.reg x).toNat ∧ t.pc = s.pc + 2#16 ∧
      Keeps [.index] [] s t)

/-- ADD_I_VX adds modulo 2^16 and leaves VF (R201; the wrap is the spec's own decision D16, log 18). -/
def Obligations.IndexAddWraps : Prop :=
  ∀ (x : Reg) (s : State), EncodedAs (.addIVx x) 0xF0FF#16 0xF01E#16 ∧
    ∃ t, exec (.addIVx x) s = .next t ∧ t.i.toNat = (s.i.toNat + (s.reg x).toNat) % 65536 ∧ t.pc = s.pc + 2#16 ∧
      Keeps [.index] [] s t

/-- LD_B_VX stores the hundreds, tens and ones digits at `I`, `I+1`, `I+2` and changes no other byte (R203; the order of the
digits is the spec's own decision D17, log 20). -/
def Obligations.BcdStoresDigits : Prop :=
  ∀ (x : Reg) (s : State), EncodedAs (.ldBVx x) 0xF0FF#16 0xF033#16 ∧
    (s.mem.wf → s.i.toNat + 2 < 4096 →
      ∃ t, exec (.ldBVx x) s = .next t ∧ t.pc = s.pc + 2#16 ∧ Keeps [.memory] [] s t ∧
        (t.readByte s.i.toNat).toNat = (s.reg x).toNat / 100 ∧
        (t.readByte (s.i.toNat + 1)).toNat = (s.reg x).toNat / 10 % 10 ∧
        (t.readByte (s.i.toNat + 2)).toNat = (s.reg x).toNat % 10 ∧
        ∀ a : Nat, (a < s.i.toNat ∨ s.i.toNat + 3 ≤ a) → t.readByte a = s.readByte a)

/-- LD_MEM_VX stores V0 through `V[x]` from `I` up, changes no other byte and keeps `I` (R204; that `I` keeps its value is
the spec's own decision D15, log 17). -/
def Obligations.StoreRegisters : Prop :=
  ∀ (x : Reg) (s : State), EncodedAs (.ldMemVx x) 0xF0FF#16 0xF055#16 ∧
    (s.mem.wf → s.i.toNat + x.val < 4096 →
      ∃ t, exec (.ldMemVx x) s = .next t ∧ t.pc = s.pc + 2#16 ∧ Keeps [.memory] [] s t ∧
        (∀ k : Reg, k.val ≤ x.val → t.readByte (s.i.toNat + k.val) = s.reg k) ∧
        ∀ a : Nat, (a < s.i.toNat ∨ s.i.toNat + x.val + 1 ≤ a) → t.readByte a = s.readByte a)

/-- LD_VX_MEM loads V0 through `V[x]` from `I` up, leaves the registers above x and keeps `I` (R205; that `I` keeps its value
is the spec's own decision D15, log 17). -/
def Obligations.LoadRegisters : Prop :=
  ∀ (x : Reg) (s : State), EncodedAs (.ldVxMem x) 0xF0FF#16 0xF065#16 ∧
    (s.i.toNat + x.val < 4096 →
      ∃ t, exec (.ldVxMem x) s = .next t ∧ t.pc = s.pc + 2#16 ∧
        (∀ k : Reg, k.val ≤ x.val → t.reg k = s.readByte (s.i.toNat + k.val)) ∧
        (∀ k : Reg, x.val < k.val → t.reg k = s.reg k) ∧
        Keeps [] ((List.finRange 16).filter (fun r => r.val ≤ x.val)) s t)

/-- What LD_MEM_VX stored, LD_VX_MEM with the same x and `I` loads back, whatever the registers hold by then (R204, R205). -/
def Obligations.StoreThenLoadRegisters : Prop :=
  ∀ (x : Reg) (s : State), s.mem.wf → s.i.toNat + x.val < 4096 →
    ∃ t, exec (.ldMemVx x) s = .next t ∧
      ∀ u : State, u.mem = t.mem → u.i = s.i →
        ∃ w, exec (.ldVxMem x) u = .next w ∧ (∀ k : Reg, k.val ≤ x.val → w.reg k = s.reg k) ∧
          ∀ k : Reg, x.val < k.val → w.reg k = u.reg k

/-- An access outside [0, 4096) raises `OutOfBoundsMemoryAccess`: the fetch, DRW, LD_B_VX, LD_MEM_VX, LD_VX_MEM. Computing an
out-of-range `PC` or `I` raises nothing: JP_V0, ADD_I_VX, the skips and RET keep the run state (R264). That `PC` is checked
at the fetch only and that the error changes nothing else are the spec's own decision D3 (log 13), that DRW checks the bytes
of dropped rows too is D12 (log 15), and the error as a next state is log 1. -/
def Obligations.OutOfRangeAccessRaises : Prop :=
  (∀ s : State, s.rs = .running → 4095 ≤ s.pc.toNat →
    cpuStep s = .next (s.setRs (.faulted .outOfBoundsMemoryAccess))) ∧
  (∀ (x y : Reg) (n : Nat) (s : State), n ≠ 0 → 4096 ≤ s.i.toNat + (n - 1) →
    exec (.drw x y n) s = .next (s.setRs (.faulted .outOfBoundsMemoryAccess))) ∧
  (∀ (x : Reg) (s : State), 4096 ≤ s.i.toNat + 2 →
    exec (.ldBVx x) s = .next (s.setRs (.faulted .outOfBoundsMemoryAccess))) ∧
  (∀ (x : Reg) (s : State), 4096 ≤ s.i.toNat + x.val →
    exec (.ldMemVx x) s = .next (s.setRs (.faulted .outOfBoundsMemoryAccess)) ∧
    exec (.ldVxMem x) s = .next (s.setRs (.faulted .outOfBoundsMemoryAccess))) ∧
  (∀ (i : Instr) (s : State),
    ((∃ nnn, i = .jpV0 nnn) ∨ (∃ x, i = .addIVx x) ∨ (∃ x kk, i = .seImm x kk ∨ i = .sneImm x kk) ∨
      (∃ x y, i = .seReg x y ∨ i = .sneReg x y) ∨ (i = .ret ∧ s.sp.val ≠ 0) ∨
      (∃ x, (i = .skp x ∨ i = .sknp x) ∧ (s.reg x).toNat < 16)) →
    ∃ t, exec i s = .next t ∧ t.rs = s.rs)

/-- A store is seen by the next fetch of its bytes: after LD_MEM_VX and after LD_B_VX a fetch at any address of memory finds
the word of the two bytes there, each the byte stored if the store covers it and the old one if not. So a fetch at `I + k`
finds V[k] and V[k+1], or two of the digits, and a fetch that the store covers by half finds one of each (R88, R297; the order
of the digits is the spec's own decision D17, log 20). -/
def Obligations.StoreSeenByFetch : Prop :=
  ∀ (x : Reg) (s : State), s.mem.wf →
    (s.i.toNat + x.val < 4096 →
      ∃ t, exec (.ldMemVx x) s = .next t ∧
        ∀ a : Word, a.toNat ≤ 4094 → ∃ w, (t.setPc a).fetch = some w ∧
          w.toNat = (byteAfterStore s (x.val + 1) (fun k => (s.v[k]?.getD 0).toNat) a.toNat) * 256 +
            byteAfterStore s (x.val + 1) (fun k => (s.v[k]?.getD 0).toNat) (a.toNat + 1)) ∧
    (s.i.toNat + 2 < 4096 →
      ∃ t, exec (.ldBVx x) s = .next t ∧
        ∀ a : Word, a.toNat ≤ 4094 → ∃ w, (t.setPc a).fetch = some w ∧
          w.toNat = (byteAfterStore s 3 (fun k => (s.reg x).toNat / 10 ^ (2 - k) % 10) a.toNat) * 256 +
            byteAfterStore s 3 (fun k => (s.reg x).toNat / 10 ^ (2 - k) % 10) (a.toNat + 1))

/-! ### Display -/

/-- CLS clears every pixel and sets `DC`; `FADE` and VF keep their values (R220; `DC` and `FADE` are the spec's own decisions
D13 and D14, log 16). -/
def Obligations.ClearScreen : Prop :=
  EncodedAs .cls 0xFFFF#16 0x00E0#16 ∧
  ∀ s : State, ∃ t, exec .cls s = .next t ∧ (∀ c r : Nat, t.pixel c r = false) ∧ t.dc = true ∧ t.pc = s.pc + 2#16 ∧
    Keeps [.frameBuffer, .displayChanged] [] s t

/-- Every DRW that executes sets `DC`, n = 0 and blank sprites included, and the core never clears it: no instruction, no
tick, no completed key wait (R225). -/
def Obligations.DrawSetsDisplayChanged : Prop :=
  (∀ (x y : Reg) (n : Nat) (s : State), InMemory s.i.toNat n → ∃ t, exec (.drw x y n) s = .next t ∧ t.dc = true) ∧
  (∀ (i : Instr) (s t : State), exec i s = .next t → s.dc = true → t.dc = true) ∧
  (∀ (s t : State), cpuStep s = .next t → s.dc = true → t.dc = true) ∧
  (∀ (s : State) (k : Key), s.tick.dc = s.dc ∧ (s.keyPress k).dc = s.dc)

/-- DRW pixel by pixel, pixels past an edge dropped: each pixel is XORed with the sprite's, `FADE` holds exactly the pixels
this draw cleared, VF says whether there is one; the rest of the state keeps its value (R221 to R226). The edge policy, the
wrapped start, the check of dropped rows and the cleared `FADE` are the spec's own decisions D10 to D13 (log 8, log 15, log
16). -/
def Obligations.DrawPixels : Prop :=
  ∀ (x y : Reg) (n : Nat) (s : State), EncodedAs (.drw x y n) 0xF000#16 0xD000#16 ∧
    (s.edge = .drop → InMemory s.i.toNat n →
      ∃ t, exec (.drw x y n) s = .next t ∧ t.pc = s.pc + 2#16 ∧ t.dc = true ∧
        Keeps [.frameBuffer, .fading, .displayChanged] [15] s t ∧
        (∀ c r : Nat, c < 64 → r < 32 →
          t.pixel c r = (s.pixel c r ^^ spritePixel s x y n c r) ∧
          t.fadePixel c r = (s.pixel c r && spritePixel s x y n c r)) ∧
        ((∃ c r : Nat, c < 64 ∧ r < 32 ∧ (s.pixel c r && spritePixel s x y n c r) = true) → t.reg 15 = 1#8) ∧
        ((∀ c r : Nat, c < 64 → r < 32 → (s.pixel c r && spritePixel s x y n c r) = false) → t.reg 15 = 0#8))

/-- The same under the two wrapping values of the parameter `EDGE_POLICY` (I3; log 8). -/
def Obligations.DrawPixelsWrapping : Prop :=
  ∀ (x y : Reg) (n : Nat) (s : State) (columns : Bool), n < 16 →
    s.edge = (if columns then .wrapBoth else .wrapRows) → InMemory s.i.toNat n →
    ∃ t, exec (.drw x y n) s = .next t ∧ t.pc = s.pc + 2#16 ∧ t.dc = true ∧
      Keeps [.frameBuffer, .fading, .displayChanged] [15] s t ∧
      (∀ c r : Nat, c < 64 → r < 32 →
        t.pixel c r = (s.pixel c r ^^ spritePixelWrapped columns s x y n c r) ∧
        t.fadePixel c r = (s.pixel c r && spritePixelWrapped columns s x y n c r)) ∧
      ((∃ c r : Nat, c < 64 ∧ r < 32 ∧ (s.pixel c r && spritePixelWrapped columns s x y n c r) = true) →
        t.reg 15 = 1#8) ∧
      ((∀ c r : Nat, c < 64 → r < 32 → (s.pixel c r && spritePixelWrapped columns s x y n c r) = false) →
        t.reg 15 = 0#8)

/-- Where a sprite byte lands: bit 7 - j at column x0 + j, columns past 63 lost; for x0 up to 56 a left shift by 56 - x0
(R222; the loss is the spec's own decision D11, log 8). -/
def Obligations.SpriteRowPlacesBits : Prop :=
  ∀ (b : Byte) (x0 : Nat), x0 < 64 →
    (∀ c : Nat, c < 64 →
      (spriteRow b x0).getLsbD (63 - c) = (decide (x0 ≤ c ∧ c < x0 + 8) && b.getLsbD (7 - (c - x0)))) ∧
    (x0 ≤ 56 → spriteRow b x0 = (b.setWidth 64) <<< (56 - x0))

/-- The same sprite drawn twice at the same place restores the framebuffer, under every edge policy; the second draw collides
exactly when the first had set a pixel that was clear (R221, R224). x and y are not VF, which the first draw writes. -/
def Obligations.DrawTwiceRestores : Prop :=
  ∀ (x y : Reg) (n : Nat) (s : State), x ≠ 15 → y ≠ 15 → n < 16 → InMemory s.i.toNat n →
    ∃ t u, exec (.drw x y n) s = .next t ∧ exec (.drw x y n) t = .next u ∧ u.fb = s.fb ∧
      (u.reg 15 = 1#8 ↔ ∃ c r : Nat, c < 64 ∧ r < 32 ∧ t.pixel c r = true ∧ s.pixel c r = false)

/-- R221's own inference that the second of two equal draws sets VF = 1 whenever the sprite has a set pixel inside the
screen. EXPECTED TO FAIL: where every such pixel was set before the first draw, the first clears them all and the second
sets them again without a collision. -/
def Obligations.SecondDrawAlwaysCollides : Prop :=
  ∀ (x y : Reg) (n : Nat) (s t u : State), s.edge = .drop → x ≠ 15 → y ≠ 15 → InMemory s.i.toNat n →
    exec (.drw x y n) s = .next t → exec (.drw x y n) t = .next u →
    (∃ c r : Nat, c < 64 ∧ r < 32 ∧ spritePixel s x y n c r = true) → u.reg 15 = 1#8

/-- `FADE` has no effect on machine semantics: two states that differ in `FADE` alone step alike, up to `FADE` (R46, R226). -/
def Obligations.FadeHasNoEffect : Prop :=
  ∀ (s : State) (f g : Vector Row 32),
    onNext (fun t => t.setFade g) (step (s.setFade f)) = onNext (fun t => t.setFade g) (step s)

/-! ### Timers and keys -/

/-- LD_VX_DT reads `DT`; LD_ST_VX sets `ST`, and the beep signal at once (R240, R242; R43). -/
def Obligations.TimerReadAndSound : Prop :=
  ∀ (x : Reg) (s : State),
    EncodedAs (.ldVxDt x) 0xF0FF#16 0xF007#16 ∧ EncodedAs (.ldStVx x) 0xF0FF#16 0xF018#16 ∧
    (∃ t, exec (.ldVxDt x) s = .next t ∧ t.reg x = s.dt ∧ t.pc = s.pc + 2#16 ∧ Keeps [] [x] s t) ∧
    (∃ t, exec (.ldStVx x) s = .next t ∧ t.st = s.reg x ∧ (t.isBeeping = true ↔ (s.reg x).toNat > 0) ∧
      t.pc = s.pc + 2#16 ∧ Keeps [.sound] [] s t)

/-- LD_DT_VX sets `DT`; that many ticks later it is 0 and it stays there (R241, R271; that the write does not align the tick
schedule is D1, log 2). -/
def Obligations.DelayTimerRunsDown : Prop :=
  ∀ (x : Reg) (s : State), EncodedAs (.ldDtVx x) 0xF0FF#16 0xF015#16 ∧
    ∃ t, exec (.ldDtVx x) s = .next t ∧ t.dt = s.reg x ∧ t.pc = s.pc + 2#16 ∧ Keeps [.delay] [] s t ∧
      ∀ n : Nat, ((State.tick^[n] t).dt = 0#8 ↔ (s.reg x).toNat ≤ n)

/-- SKP and SKNP with a key number: the skip follows the input provider's free answer, the two with opposite conditions (R243,
R244; the answer is free by D22, log 5). It holds for every answer. -/
def Obligations.KeySkips : Prop :=
  ∀ (x : Reg) (k : Key) (s : State),
    EncodedAs (.skp x) 0xF0FF#16 0xE09E#16 ∧ EncodedAs (.sknp x) 0xF0FF#16 0xE0A1#16 ∧
    ((s.reg x).toNat = k.val →
      (∃ t, exec (.skp x) s = .next t ∧ Keeps [.draws] [] s t ∧ t.draws = s.draws + 1 ∧
        t.pc = if Config.keyPressed s.draws k then s.pc + 4#16 else s.pc + 2#16) ∧
      (∃ t, exec (.sknp x) s = .next t ∧ Keeps [.draws] [] s t ∧ t.draws = s.draws + 1 ∧
        t.pc = if Config.keyPressed s.draws k then s.pc + 2#16 else s.pc + 4#16))

/-- LD_VX_K enters the wait with `PC` still at it and returns `Waiting`; `Step()` then changes nothing, ticks go on, and a key
press puts the key's number in `V[x]` and moves on (R245, R246). Where `PC` points during the wait and its advance by 2 at
completion are the spec's own decision D9 (log 3). -/
def Obligations.KeyWaitEntered : Prop :=
  ∀ (x : Reg) (s : State), EncodedAs (.ldVxK x) 0xF0FF#16 0xF00A#16 ∧
    ∃ t, exec (.ldVxK x) s = .next t ∧ t.rs = .awaitingKey x ∧ t.pc = s.pc ∧ t.result = .waiting ∧
      Keeps [.runState] [] s t ∧ cpuStep t = .next t ∧ t.tick.rs = .awaitingKey x ∧
      t.tick.dt.toNat = t.dt.toNat - 1 ∧ t.tick.st.toNat = t.st.toNat - 1 ∧
      ∀ k : Key, ((t.keyPress k).reg x).toNat = k.val ∧ (t.keyPress k).pc = s.pc + 2#16 ∧ (t.keyPress k).rs = .running

/-! ### Whole-machine rules -/

/-- No execute stage writes anything outside the second column of R33, errors included: of the parts and registers only
those listed, of memory only the bytes stored from `I` up, three for LD_B_VX and x + 1 for LD_MEM_VX, and of the stack entries
only the one at `SP`, which CALL writes (R33, R84, R206). `RS` changes only where LD_VX_K enters its wait and where an error
is recorded, which writes `RS` alone, the spec's own decision D3 (log 13); the error as a next state is log 1. -/
def Obligations.OnlyListedWrites : Prop :=
  ∀ (i : Instr) (s t : State), exec i s = .next t →
    Keeps (writtenParts i) (writtenRegs i) s t ∧
    (∀ a : Nat, (a < s.base ∨ s.base + storedLength s i ≤ a) → t.readByte a = s.readByte a) ∧
    (∀ k : Nat, k ≠ s.sp.val → t.stack[k]? = s.stack[k]?) ∧
    (t.rs = s.rs ∨ (∃ x, i = .ldVxK x ∧ t.rs = .awaitingKey x) ∨ ∃ k, t = s.setRs (.faulted k))

/-- A tick and the execute stage of any instruction that does not name a timer commute (R84, R85). -/
def Obligations.TicksCommuteWithExecute : Prop :=
  ∀ (i : Instr) (s : State), (∀ x, i ≠ .ldVxDt x ∧ i ≠ .ldDtVx x ∧ i ≠ .ldStVx x) →
    exec i s.tick = onNext State.tick (exec i s)

/-- The invariant: memory canonical, `PC` at most 0x10FE, the stack holding addresses of fetched instructions, a key wait
standing at its Fx0A. Every step keeps it (R38, R39, R47, R76). -/
def Obligations.StepKeepsInvariant : Prop :=
  ∀ s t : State, s.Inv → step s = .next t → t.Inv

/-- Every interleaving of the three agents' transitions keeps the invariant (R38, R84, R130). -/
def Obligations.MovesKeepInvariant : Prop :=
  ∀ (ms : List Move) (s t : State), s.Inv → s.moves ms = .next t → t.Inv

/-- The reset state meets the invariant. -/
def Obligations.ResetMeetsInvariant : Prop := State.reset.Inv

/-- Every machine the host can start meets the invariant: any font, any ROM that fits (R290, R291). -/
def Obligations.LoadedMachineMeetsInvariant : Prop :=
  ∀ (font : Vector Byte 80) (rom : List Byte) (s : State), (State.construct font).loadRom rom = some s → s.Inv

/-- An idle loop is a state that `Step()` does not change (R301 case 2; the end of a run is the spec's own decision D26). -/
def Obligations.IdleLoopChangesNothing : Prop :=
  ∀ s : State, s.idles = true → cpuStep s = .next s

/-! ### Reset and load -/

/-- The state at the first step with a ROM of no bytes, item by item (R294); the font bytes are the default of the parameter
`FONT` (log 7), the stack entries' 0 is D28 (log 19); `edge` and `draws` are the model's own (log 6, log 8) and not
claimed. -/
def Obligations.ResetState : Prop :=
  (∀ r : Reg, State.reset.reg r = 0#8) ∧ State.reset.i = 0#16 ∧ State.reset.pc = 0x200#16 ∧
  (∀ k : Nat, k < 16 → State.reset.stack[k]? = some 0#16) ∧ State.reset.sp.val = 0 ∧ State.reset.dt = 0#8 ∧
  State.reset.st = 0#8 ∧ State.reset.isBeeping = false ∧ State.reset.dc = false ∧ State.reset.rs = .running ∧
  (∀ c r : Nat, State.reset.pixel c r = false ∧ State.reset.fadePixel c r = false) ∧
  (∀ a : Nat, (a < 0x050 ∨ 0x0A0 ≤ a) → State.reset.readByte a = 0#8) ∧
  (State.construct ⟨defaultFont.toArray, by decide⟩).loadRom [] = some State.reset

/-- Construction with any 80 font bytes: they stand at 0x050 up, every other byte and every other item of state is 0, `SP` is
0, the CPU runs (R290; the stack entries' 0 is D28, log 19). A ROM of more than 3584 bytes is then refused (R292; D19, log
12). -/
def Obligations.ConstructionState : Prop :=
  ∀ font : Vector Byte 80,
    (∀ rom : List Byte, 3584 < rom.length → (State.construct font).loadRom rom = none) ∧
    (∀ k : Nat, ∀ h : k < 80, (State.construct font).readByte (0x050 + k) = font[k]) ∧
    (∀ a : Nat, (a < 0x050 ∨ 0x0A0 ≤ a) → (State.construct font).readByte a = 0#8) ∧
    (State.construct font).pc = 0#16 ∧ (State.construct font).rs = .running ∧
    (∀ r : Reg, (State.construct font).reg r = 0#8) ∧ (State.construct font).i = 0#16 ∧
    (State.construct font).sp.val = 0 ∧ (∀ k : Nat, k < 16 → (State.construct font).stack[k]? = some 0#16) ∧
    (State.construct font).dt = 0#8 ∧ (State.construct font).st = 0#8 ∧ (State.construct font).dc = false ∧
    (∀ c r : Nat, (State.construct font).pixel c r = false ∧ (State.construct font).fadePixel c r = false)

/-- `load_rom` of at most 3584 bytes copies them verbatim to 0x200 up and sets `PC` to 0x200; nothing else changes (R291). -/
def Obligations.LoadRomCopies : Prop :=
  ∀ (s : State) (rom : List Byte), s.mem.wf → rom.length ≤ 3584 →
    ∃ t, s.loadRom rom = some t ∧ t.pc = 0x200#16 ∧
      (∀ k : Nat, k < rom.length → some (t.readByte (0x200 + k)) = rom[k]?) ∧
      (∀ a : Nat, (a < 0x200 ∨ 0x200 + rom.length ≤ a) → t.readByte a = s.readByte a) ∧ Keeps [.memory] [] s t
end

