-- ==== Sys2Proof/Laws/State.lean ====
section
/-! SUPPORT. What each writer of the state does to each field: one lemma per field per update, true by definition, so that
no proof unfolds a record update. -/

namespace Sys2Proof.Machine

/-! #### `setMem` -/

@[simp] theorem State.setMem_mem (s : State) (a : Memory) : (s.setMem a).mem = a := rfl
@[simp] theorem State.setMem_v (s : State) (a : Memory) : (s.setMem a).v = s.v := rfl
@[simp] theorem State.setMem_i (s : State) (a : Memory) : (s.setMem a).i = s.i := rfl
@[simp] theorem State.setMem_pc (s : State) (a : Memory) : (s.setMem a).pc = s.pc := rfl
@[simp] theorem State.setMem_stack (s : State) (a : Memory) : (s.setMem a).stack = s.stack := rfl
@[simp] theorem State.setMem_sp (s : State) (a : Memory) : (s.setMem a).sp = s.sp := rfl
@[simp] theorem State.setMem_dt (s : State) (a : Memory) : (s.setMem a).dt = s.dt := rfl
@[simp] theorem State.setMem_st (s : State) (a : Memory) : (s.setMem a).st = s.st := rfl
@[simp] theorem State.setMem_fb (s : State) (a : Memory) : (s.setMem a).fb = s.fb := rfl
@[simp] theorem State.setMem_dc (s : State) (a : Memory) : (s.setMem a).dc = s.dc := rfl
@[simp] theorem State.setMem_fade (s : State) (a : Memory) : (s.setMem a).fade = s.fade := rfl
@[simp] theorem State.setMem_rs (s : State) (a : Memory) : (s.setMem a).rs = s.rs := rfl
@[simp] theorem State.setMem_edge (s : State) (a : Memory) : (s.setMem a).edge = s.edge := rfl
@[simp] theorem State.setMem_draws (s : State) (a : Memory) : (s.setMem a).draws = s.draws := rfl

/-! #### `setV` -/

@[simp] theorem State.setV_mem (s : State) (a : Vector Byte 16) : (s.setV a).mem = s.mem := rfl
@[simp] theorem State.setV_v (s : State) (a : Vector Byte 16) : (s.setV a).v = a := rfl
@[simp] theorem State.setV_i (s : State) (a : Vector Byte 16) : (s.setV a).i = s.i := rfl
@[simp] theorem State.setV_pc (s : State) (a : Vector Byte 16) : (s.setV a).pc = s.pc := rfl
@[simp] theorem State.setV_stack (s : State) (a : Vector Byte 16) : (s.setV a).stack = s.stack := rfl
@[simp] theorem State.setV_sp (s : State) (a : Vector Byte 16) : (s.setV a).sp = s.sp := rfl
@[simp] theorem State.setV_dt (s : State) (a : Vector Byte 16) : (s.setV a).dt = s.dt := rfl
@[simp] theorem State.setV_st (s : State) (a : Vector Byte 16) : (s.setV a).st = s.st := rfl
@[simp] theorem State.setV_fb (s : State) (a : Vector Byte 16) : (s.setV a).fb = s.fb := rfl
@[simp] theorem State.setV_dc (s : State) (a : Vector Byte 16) : (s.setV a).dc = s.dc := rfl
@[simp] theorem State.setV_fade (s : State) (a : Vector Byte 16) : (s.setV a).fade = s.fade := rfl
@[simp] theorem State.setV_rs (s : State) (a : Vector Byte 16) : (s.setV a).rs = s.rs := rfl
@[simp] theorem State.setV_edge (s : State) (a : Vector Byte 16) : (s.setV a).edge = s.edge := rfl
@[simp] theorem State.setV_draws (s : State) (a : Vector Byte 16) : (s.setV a).draws = s.draws := rfl

/-! #### `setI` -/

@[simp] theorem State.setI_mem (s : State) (a : Word) : (s.setI a).mem = s.mem := rfl
@[simp] theorem State.setI_v (s : State) (a : Word) : (s.setI a).v = s.v := rfl
@[simp] theorem State.setI_i (s : State) (a : Word) : (s.setI a).i = a := rfl
@[simp] theorem State.setI_pc (s : State) (a : Word) : (s.setI a).pc = s.pc := rfl
@[simp] theorem State.setI_stack (s : State) (a : Word) : (s.setI a).stack = s.stack := rfl
@[simp] theorem State.setI_sp (s : State) (a : Word) : (s.setI a).sp = s.sp := rfl
@[simp] theorem State.setI_dt (s : State) (a : Word) : (s.setI a).dt = s.dt := rfl
@[simp] theorem State.setI_st (s : State) (a : Word) : (s.setI a).st = s.st := rfl
@[simp] theorem State.setI_fb (s : State) (a : Word) : (s.setI a).fb = s.fb := rfl
@[simp] theorem State.setI_dc (s : State) (a : Word) : (s.setI a).dc = s.dc := rfl
@[simp] theorem State.setI_fade (s : State) (a : Word) : (s.setI a).fade = s.fade := rfl
@[simp] theorem State.setI_rs (s : State) (a : Word) : (s.setI a).rs = s.rs := rfl
@[simp] theorem State.setI_edge (s : State) (a : Word) : (s.setI a).edge = s.edge := rfl
@[simp] theorem State.setI_draws (s : State) (a : Word) : (s.setI a).draws = s.draws := rfl

/-! #### `setPc` -/

@[simp] theorem State.setPc_mem (s : State) (a : Word) : (s.setPc a).mem = s.mem := rfl
@[simp] theorem State.setPc_v (s : State) (a : Word) : (s.setPc a).v = s.v := rfl
@[simp] theorem State.setPc_i (s : State) (a : Word) : (s.setPc a).i = s.i := rfl
@[simp] theorem State.setPc_pc (s : State) (a : Word) : (s.setPc a).pc = a := rfl
@[simp] theorem State.setPc_stack (s : State) (a : Word) : (s.setPc a).stack = s.stack := rfl
@[simp] theorem State.setPc_sp (s : State) (a : Word) : (s.setPc a).sp = s.sp := rfl
@[simp] theorem State.setPc_dt (s : State) (a : Word) : (s.setPc a).dt = s.dt := rfl
@[simp] theorem State.setPc_st (s : State) (a : Word) : (s.setPc a).st = s.st := rfl
@[simp] theorem State.setPc_fb (s : State) (a : Word) : (s.setPc a).fb = s.fb := rfl
@[simp] theorem State.setPc_dc (s : State) (a : Word) : (s.setPc a).dc = s.dc := rfl
@[simp] theorem State.setPc_fade (s : State) (a : Word) : (s.setPc a).fade = s.fade := rfl
@[simp] theorem State.setPc_rs (s : State) (a : Word) : (s.setPc a).rs = s.rs := rfl
@[simp] theorem State.setPc_edge (s : State) (a : Word) : (s.setPc a).edge = s.edge := rfl
@[simp] theorem State.setPc_draws (s : State) (a : Word) : (s.setPc a).draws = s.draws := rfl

/-! #### `setStack` -/

@[simp] theorem State.setStack_mem (s : State) (a : Vector Word 16) : (s.setStack a).mem = s.mem := rfl
@[simp] theorem State.setStack_v (s : State) (a : Vector Word 16) : (s.setStack a).v = s.v := rfl
@[simp] theorem State.setStack_i (s : State) (a : Vector Word 16) : (s.setStack a).i = s.i := rfl
@[simp] theorem State.setStack_pc (s : State) (a : Vector Word 16) : (s.setStack a).pc = s.pc := rfl
@[simp] theorem State.setStack_stack (s : State) (a : Vector Word 16) : (s.setStack a).stack = a := rfl
@[simp] theorem State.setStack_sp (s : State) (a : Vector Word 16) : (s.setStack a).sp = s.sp := rfl
@[simp] theorem State.setStack_dt (s : State) (a : Vector Word 16) : (s.setStack a).dt = s.dt := rfl
@[simp] theorem State.setStack_st (s : State) (a : Vector Word 16) : (s.setStack a).st = s.st := rfl
@[simp] theorem State.setStack_fb (s : State) (a : Vector Word 16) : (s.setStack a).fb = s.fb := rfl
@[simp] theorem State.setStack_dc (s : State) (a : Vector Word 16) : (s.setStack a).dc = s.dc := rfl
@[simp] theorem State.setStack_fade (s : State) (a : Vector Word 16) : (s.setStack a).fade = s.fade := rfl
@[simp] theorem State.setStack_rs (s : State) (a : Vector Word 16) : (s.setStack a).rs = s.rs := rfl
@[simp] theorem State.setStack_edge (s : State) (a : Vector Word 16) : (s.setStack a).edge = s.edge := rfl
@[simp] theorem State.setStack_draws (s : State) (a : Vector Word 16) : (s.setStack a).draws = s.draws := rfl

/-! #### `setSp` -/

@[simp] theorem State.setSp_mem (s : State) (a : Fin 17) : (s.setSp a).mem = s.mem := rfl
@[simp] theorem State.setSp_v (s : State) (a : Fin 17) : (s.setSp a).v = s.v := rfl
@[simp] theorem State.setSp_i (s : State) (a : Fin 17) : (s.setSp a).i = s.i := rfl
@[simp] theorem State.setSp_pc (s : State) (a : Fin 17) : (s.setSp a).pc = s.pc := rfl
@[simp] theorem State.setSp_stack (s : State) (a : Fin 17) : (s.setSp a).stack = s.stack := rfl
@[simp] theorem State.setSp_sp (s : State) (a : Fin 17) : (s.setSp a).sp = a := rfl
@[simp] theorem State.setSp_dt (s : State) (a : Fin 17) : (s.setSp a).dt = s.dt := rfl
@[simp] theorem State.setSp_st (s : State) (a : Fin 17) : (s.setSp a).st = s.st := rfl
@[simp] theorem State.setSp_fb (s : State) (a : Fin 17) : (s.setSp a).fb = s.fb := rfl
@[simp] theorem State.setSp_dc (s : State) (a : Fin 17) : (s.setSp a).dc = s.dc := rfl
@[simp] theorem State.setSp_fade (s : State) (a : Fin 17) : (s.setSp a).fade = s.fade := rfl
@[simp] theorem State.setSp_rs (s : State) (a : Fin 17) : (s.setSp a).rs = s.rs := rfl
@[simp] theorem State.setSp_edge (s : State) (a : Fin 17) : (s.setSp a).edge = s.edge := rfl
@[simp] theorem State.setSp_draws (s : State) (a : Fin 17) : (s.setSp a).draws = s.draws := rfl

/-! #### `setDt` -/

@[simp] theorem State.setDt_mem (s : State) (a : Byte) : (s.setDt a).mem = s.mem := rfl
@[simp] theorem State.setDt_v (s : State) (a : Byte) : (s.setDt a).v = s.v := rfl
@[simp] theorem State.setDt_i (s : State) (a : Byte) : (s.setDt a).i = s.i := rfl
@[simp] theorem State.setDt_pc (s : State) (a : Byte) : (s.setDt a).pc = s.pc := rfl
@[simp] theorem State.setDt_stack (s : State) (a : Byte) : (s.setDt a).stack = s.stack := rfl
@[simp] theorem State.setDt_sp (s : State) (a : Byte) : (s.setDt a).sp = s.sp := rfl
@[simp] theorem State.setDt_dt (s : State) (a : Byte) : (s.setDt a).dt = a := rfl
@[simp] theorem State.setDt_st (s : State) (a : Byte) : (s.setDt a).st = s.st := rfl
@[simp] theorem State.setDt_fb (s : State) (a : Byte) : (s.setDt a).fb = s.fb := rfl
@[simp] theorem State.setDt_dc (s : State) (a : Byte) : (s.setDt a).dc = s.dc := rfl
@[simp] theorem State.setDt_fade (s : State) (a : Byte) : (s.setDt a).fade = s.fade := rfl
@[simp] theorem State.setDt_rs (s : State) (a : Byte) : (s.setDt a).rs = s.rs := rfl
@[simp] theorem State.setDt_edge (s : State) (a : Byte) : (s.setDt a).edge = s.edge := rfl
@[simp] theorem State.setDt_draws (s : State) (a : Byte) : (s.setDt a).draws = s.draws := rfl

/-! #### `setSt` -/

@[simp] theorem State.setSt_mem (s : State) (a : Byte) : (s.setSt a).mem = s.mem := rfl
@[simp] theorem State.setSt_v (s : State) (a : Byte) : (s.setSt a).v = s.v := rfl
@[simp] theorem State.setSt_i (s : State) (a : Byte) : (s.setSt a).i = s.i := rfl
@[simp] theorem State.setSt_pc (s : State) (a : Byte) : (s.setSt a).pc = s.pc := rfl
@[simp] theorem State.setSt_stack (s : State) (a : Byte) : (s.setSt a).stack = s.stack := rfl
@[simp] theorem State.setSt_sp (s : State) (a : Byte) : (s.setSt a).sp = s.sp := rfl
@[simp] theorem State.setSt_dt (s : State) (a : Byte) : (s.setSt a).dt = s.dt := rfl
@[simp] theorem State.setSt_st (s : State) (a : Byte) : (s.setSt a).st = a := rfl
@[simp] theorem State.setSt_fb (s : State) (a : Byte) : (s.setSt a).fb = s.fb := rfl
@[simp] theorem State.setSt_dc (s : State) (a : Byte) : (s.setSt a).dc = s.dc := rfl
@[simp] theorem State.setSt_fade (s : State) (a : Byte) : (s.setSt a).fade = s.fade := rfl
@[simp] theorem State.setSt_rs (s : State) (a : Byte) : (s.setSt a).rs = s.rs := rfl
@[simp] theorem State.setSt_edge (s : State) (a : Byte) : (s.setSt a).edge = s.edge := rfl
@[simp] theorem State.setSt_draws (s : State) (a : Byte) : (s.setSt a).draws = s.draws := rfl

/-! #### `setFb` -/

@[simp] theorem State.setFb_mem (s : State) (a : Vector Row 32) : (s.setFb a).mem = s.mem := rfl
@[simp] theorem State.setFb_v (s : State) (a : Vector Row 32) : (s.setFb a).v = s.v := rfl
@[simp] theorem State.setFb_i (s : State) (a : Vector Row 32) : (s.setFb a).i = s.i := rfl
@[simp] theorem State.setFb_pc (s : State) (a : Vector Row 32) : (s.setFb a).pc = s.pc := rfl
@[simp] theorem State.setFb_stack (s : State) (a : Vector Row 32) : (s.setFb a).stack = s.stack := rfl
@[simp] theorem State.setFb_sp (s : State) (a : Vector Row 32) : (s.setFb a).sp = s.sp := rfl
@[simp] theorem State.setFb_dt (s : State) (a : Vector Row 32) : (s.setFb a).dt = s.dt := rfl
@[simp] theorem State.setFb_st (s : State) (a : Vector Row 32) : (s.setFb a).st = s.st := rfl
@[simp] theorem State.setFb_fb (s : State) (a : Vector Row 32) : (s.setFb a).fb = a := rfl
@[simp] theorem State.setFb_dc (s : State) (a : Vector Row 32) : (s.setFb a).dc = s.dc := rfl
@[simp] theorem State.setFb_fade (s : State) (a : Vector Row 32) : (s.setFb a).fade = s.fade := rfl
@[simp] theorem State.setFb_rs (s : State) (a : Vector Row 32) : (s.setFb a).rs = s.rs := rfl
@[simp] theorem State.setFb_edge (s : State) (a : Vector Row 32) : (s.setFb a).edge = s.edge := rfl
@[simp] theorem State.setFb_draws (s : State) (a : Vector Row 32) : (s.setFb a).draws = s.draws := rfl

/-! #### `setDc` -/

@[simp] theorem State.setDc_mem (s : State) (a : Bool) : (s.setDc a).mem = s.mem := rfl
@[simp] theorem State.setDc_v (s : State) (a : Bool) : (s.setDc a).v = s.v := rfl
@[simp] theorem State.setDc_i (s : State) (a : Bool) : (s.setDc a).i = s.i := rfl
@[simp] theorem State.setDc_pc (s : State) (a : Bool) : (s.setDc a).pc = s.pc := rfl
@[simp] theorem State.setDc_stack (s : State) (a : Bool) : (s.setDc a).stack = s.stack := rfl
@[simp] theorem State.setDc_sp (s : State) (a : Bool) : (s.setDc a).sp = s.sp := rfl
@[simp] theorem State.setDc_dt (s : State) (a : Bool) : (s.setDc a).dt = s.dt := rfl
@[simp] theorem State.setDc_st (s : State) (a : Bool) : (s.setDc a).st = s.st := rfl
@[simp] theorem State.setDc_fb (s : State) (a : Bool) : (s.setDc a).fb = s.fb := rfl
@[simp] theorem State.setDc_dc (s : State) (a : Bool) : (s.setDc a).dc = a := rfl
@[simp] theorem State.setDc_fade (s : State) (a : Bool) : (s.setDc a).fade = s.fade := rfl
@[simp] theorem State.setDc_rs (s : State) (a : Bool) : (s.setDc a).rs = s.rs := rfl
@[simp] theorem State.setDc_edge (s : State) (a : Bool) : (s.setDc a).edge = s.edge := rfl
@[simp] theorem State.setDc_draws (s : State) (a : Bool) : (s.setDc a).draws = s.draws := rfl

/-! #### `setFade` -/

@[simp] theorem State.setFade_mem (s : State) (a : Vector Row 32) : (s.setFade a).mem = s.mem := rfl
@[simp] theorem State.setFade_v (s : State) (a : Vector Row 32) : (s.setFade a).v = s.v := rfl
@[simp] theorem State.setFade_i (s : State) (a : Vector Row 32) : (s.setFade a).i = s.i := rfl
@[simp] theorem State.setFade_pc (s : State) (a : Vector Row 32) : (s.setFade a).pc = s.pc := rfl
@[simp] theorem State.setFade_stack (s : State) (a : Vector Row 32) : (s.setFade a).stack = s.stack := rfl
@[simp] theorem State.setFade_sp (s : State) (a : Vector Row 32) : (s.setFade a).sp = s.sp := rfl
@[simp] theorem State.setFade_dt (s : State) (a : Vector Row 32) : (s.setFade a).dt = s.dt := rfl
@[simp] theorem State.setFade_st (s : State) (a : Vector Row 32) : (s.setFade a).st = s.st := rfl
@[simp] theorem State.setFade_fb (s : State) (a : Vector Row 32) : (s.setFade a).fb = s.fb := rfl
@[simp] theorem State.setFade_dc (s : State) (a : Vector Row 32) : (s.setFade a).dc = s.dc := rfl
@[simp] theorem State.setFade_fade (s : State) (a : Vector Row 32) : (s.setFade a).fade = a := rfl
@[simp] theorem State.setFade_rs (s : State) (a : Vector Row 32) : (s.setFade a).rs = s.rs := rfl
@[simp] theorem State.setFade_edge (s : State) (a : Vector Row 32) : (s.setFade a).edge = s.edge := rfl
@[simp] theorem State.setFade_draws (s : State) (a : Vector Row 32) : (s.setFade a).draws = s.draws := rfl

/-! #### `setRs` -/

@[simp] theorem State.setRs_mem (s : State) (a : RunState) : (s.setRs a).mem = s.mem := rfl
@[simp] theorem State.setRs_v (s : State) (a : RunState) : (s.setRs a).v = s.v := rfl
@[simp] theorem State.setRs_i (s : State) (a : RunState) : (s.setRs a).i = s.i := rfl
@[simp] theorem State.setRs_pc (s : State) (a : RunState) : (s.setRs a).pc = s.pc := rfl
@[simp] theorem State.setRs_stack (s : State) (a : RunState) : (s.setRs a).stack = s.stack := rfl
@[simp] theorem State.setRs_sp (s : State) (a : RunState) : (s.setRs a).sp = s.sp := rfl
@[simp] theorem State.setRs_dt (s : State) (a : RunState) : (s.setRs a).dt = s.dt := rfl
@[simp] theorem State.setRs_st (s : State) (a : RunState) : (s.setRs a).st = s.st := rfl
@[simp] theorem State.setRs_fb (s : State) (a : RunState) : (s.setRs a).fb = s.fb := rfl
@[simp] theorem State.setRs_dc (s : State) (a : RunState) : (s.setRs a).dc = s.dc := rfl
@[simp] theorem State.setRs_fade (s : State) (a : RunState) : (s.setRs a).fade = s.fade := rfl
@[simp] theorem State.setRs_rs (s : State) (a : RunState) : (s.setRs a).rs = a := rfl
@[simp] theorem State.setRs_edge (s : State) (a : RunState) : (s.setRs a).edge = s.edge := rfl
@[simp] theorem State.setRs_draws (s : State) (a : RunState) : (s.setRs a).draws = s.draws := rfl

/-! #### `setEdge` -/

@[simp] theorem State.setEdge_mem (s : State) (a : EdgePolicy) : (s.setEdge a).mem = s.mem := rfl
@[simp] theorem State.setEdge_v (s : State) (a : EdgePolicy) : (s.setEdge a).v = s.v := rfl
@[simp] theorem State.setEdge_i (s : State) (a : EdgePolicy) : (s.setEdge a).i = s.i := rfl
@[simp] theorem State.setEdge_pc (s : State) (a : EdgePolicy) : (s.setEdge a).pc = s.pc := rfl
@[simp] theorem State.setEdge_stack (s : State) (a : EdgePolicy) : (s.setEdge a).stack = s.stack := rfl
@[simp] theorem State.setEdge_sp (s : State) (a : EdgePolicy) : (s.setEdge a).sp = s.sp := rfl
@[simp] theorem State.setEdge_dt (s : State) (a : EdgePolicy) : (s.setEdge a).dt = s.dt := rfl
@[simp] theorem State.setEdge_st (s : State) (a : EdgePolicy) : (s.setEdge a).st = s.st := rfl
@[simp] theorem State.setEdge_fb (s : State) (a : EdgePolicy) : (s.setEdge a).fb = s.fb := rfl
@[simp] theorem State.setEdge_dc (s : State) (a : EdgePolicy) : (s.setEdge a).dc = s.dc := rfl
@[simp] theorem State.setEdge_fade (s : State) (a : EdgePolicy) : (s.setEdge a).fade = s.fade := rfl
@[simp] theorem State.setEdge_rs (s : State) (a : EdgePolicy) : (s.setEdge a).rs = s.rs := rfl
@[simp] theorem State.setEdge_edge (s : State) (a : EdgePolicy) : (s.setEdge a).edge = a := rfl
@[simp] theorem State.setEdge_draws (s : State) (a : EdgePolicy) : (s.setEdge a).draws = s.draws := rfl

/-! #### `setDraws` -/

@[simp] theorem State.setDraws_mem (s : State) (a : Nat) : (s.setDraws a).mem = s.mem := rfl
@[simp] theorem State.setDraws_v (s : State) (a : Nat) : (s.setDraws a).v = s.v := rfl
@[simp] theorem State.setDraws_i (s : State) (a : Nat) : (s.setDraws a).i = s.i := rfl
@[simp] theorem State.setDraws_pc (s : State) (a : Nat) : (s.setDraws a).pc = s.pc := rfl
@[simp] theorem State.setDraws_stack (s : State) (a : Nat) : (s.setDraws a).stack = s.stack := rfl
@[simp] theorem State.setDraws_sp (s : State) (a : Nat) : (s.setDraws a).sp = s.sp := rfl
@[simp] theorem State.setDraws_dt (s : State) (a : Nat) : (s.setDraws a).dt = s.dt := rfl
@[simp] theorem State.setDraws_st (s : State) (a : Nat) : (s.setDraws a).st = s.st := rfl
@[simp] theorem State.setDraws_fb (s : State) (a : Nat) : (s.setDraws a).fb = s.fb := rfl
@[simp] theorem State.setDraws_dc (s : State) (a : Nat) : (s.setDraws a).dc = s.dc := rfl
@[simp] theorem State.setDraws_fade (s : State) (a : Nat) : (s.setDraws a).fade = s.fade := rfl
@[simp] theorem State.setDraws_rs (s : State) (a : Nat) : (s.setDraws a).rs = s.rs := rfl
@[simp] theorem State.setDraws_edge (s : State) (a : Nat) : (s.setDraws a).edge = s.edge := rfl
@[simp] theorem State.setDraws_draws (s : State) (a : Nat) : (s.setDraws a).draws = a := rfl

/-! #### `advance` -/

@[simp] theorem State.advance_mem (s : State) : s.advance.mem = s.mem := rfl
@[simp] theorem State.advance_v (s : State) : s.advance.v = s.v := rfl
@[simp] theorem State.advance_i (s : State) : s.advance.i = s.i := rfl
@[simp] theorem State.advance_pc (s : State) : s.advance.pc = s.pc + 2#16 := rfl
@[simp] theorem State.advance_stack (s : State) : s.advance.stack = s.stack := rfl
@[simp] theorem State.advance_sp (s : State) : s.advance.sp = s.sp := rfl
@[simp] theorem State.advance_dt (s : State) : s.advance.dt = s.dt := rfl
@[simp] theorem State.advance_st (s : State) : s.advance.st = s.st := rfl
@[simp] theorem State.advance_fb (s : State) : s.advance.fb = s.fb := rfl
@[simp] theorem State.advance_dc (s : State) : s.advance.dc = s.dc := rfl
@[simp] theorem State.advance_fade (s : State) : s.advance.fade = s.fade := rfl
@[simp] theorem State.advance_rs (s : State) : s.advance.rs = s.rs := rfl
@[simp] theorem State.advance_edge (s : State) : s.advance.edge = s.edge := rfl
@[simp] theorem State.advance_draws (s : State) : s.advance.draws = s.draws := rfl

/-! #### `skipIf` -/

@[simp] theorem State.skipIf_mem (s : State) (c : Bool) : (s.skipIf c).mem = s.mem := rfl
@[simp] theorem State.skipIf_v (s : State) (c : Bool) : (s.skipIf c).v = s.v := rfl
@[simp] theorem State.skipIf_i (s : State) (c : Bool) : (s.skipIf c).i = s.i := rfl
@[simp] theorem State.skipIf_pc (s : State) (c : Bool) : (s.skipIf c).pc = if c then s.pc + 4#16 else s.pc + 2#16 := rfl
@[simp] theorem State.skipIf_stack (s : State) (c : Bool) : (s.skipIf c).stack = s.stack := rfl
@[simp] theorem State.skipIf_sp (s : State) (c : Bool) : (s.skipIf c).sp = s.sp := rfl
@[simp] theorem State.skipIf_dt (s : State) (c : Bool) : (s.skipIf c).dt = s.dt := rfl
@[simp] theorem State.skipIf_st (s : State) (c : Bool) : (s.skipIf c).st = s.st := rfl
@[simp] theorem State.skipIf_fb (s : State) (c : Bool) : (s.skipIf c).fb = s.fb := rfl
@[simp] theorem State.skipIf_dc (s : State) (c : Bool) : (s.skipIf c).dc = s.dc := rfl
@[simp] theorem State.skipIf_fade (s : State) (c : Bool) : (s.skipIf c).fade = s.fade := rfl
@[simp] theorem State.skipIf_rs (s : State) (c : Bool) : (s.skipIf c).rs = s.rs := rfl
@[simp] theorem State.skipIf_edge (s : State) (c : Bool) : (s.skipIf c).edge = s.edge := rfl
@[simp] theorem State.skipIf_draws (s : State) (c : Bool) : (s.skipIf c).draws = s.draws := rfl

/-! #### `spendDraw` -/

@[simp] theorem State.spendDraw_mem (s : State) : s.spendDraw.mem = s.mem := rfl
@[simp] theorem State.spendDraw_v (s : State) : s.spendDraw.v = s.v := rfl
@[simp] theorem State.spendDraw_i (s : State) : s.spendDraw.i = s.i := rfl
@[simp] theorem State.spendDraw_pc (s : State) : s.spendDraw.pc = s.pc := rfl
@[simp] theorem State.spendDraw_stack (s : State) : s.spendDraw.stack = s.stack := rfl
@[simp] theorem State.spendDraw_sp (s : State) : s.spendDraw.sp = s.sp := rfl
@[simp] theorem State.spendDraw_dt (s : State) : s.spendDraw.dt = s.dt := rfl
@[simp] theorem State.spendDraw_st (s : State) : s.spendDraw.st = s.st := rfl
@[simp] theorem State.spendDraw_fb (s : State) : s.spendDraw.fb = s.fb := rfl
@[simp] theorem State.spendDraw_dc (s : State) : s.spendDraw.dc = s.dc := rfl
@[simp] theorem State.spendDraw_fade (s : State) : s.spendDraw.fade = s.fade := rfl
@[simp] theorem State.spendDraw_rs (s : State) : s.spendDraw.rs = s.rs := rfl
@[simp] theorem State.spendDraw_edge (s : State) : s.spendDraw.edge = s.edge := rfl
@[simp] theorem State.spendDraw_draws (s : State) : s.spendDraw.draws = s.draws + 1 := rfl

/-! #### `setReg` -/

@[simp] theorem State.setReg_mem (s : State) (x : Reg) (b : Byte) : (s.setReg x b).mem = s.mem := rfl
@[simp] theorem State.setReg_v (s : State) (x : Reg) (b : Byte) : (s.setReg x b).v = s.v.set x.val b := rfl
@[simp] theorem State.setReg_i (s : State) (x : Reg) (b : Byte) : (s.setReg x b).i = s.i := rfl
@[simp] theorem State.setReg_pc (s : State) (x : Reg) (b : Byte) : (s.setReg x b).pc = s.pc := rfl
@[simp] theorem State.setReg_stack (s : State) (x : Reg) (b : Byte) : (s.setReg x b).stack = s.stack := rfl
@[simp] theorem State.setReg_sp (s : State) (x : Reg) (b : Byte) : (s.setReg x b).sp = s.sp := rfl
@[simp] theorem State.setReg_dt (s : State) (x : Reg) (b : Byte) : (s.setReg x b).dt = s.dt := rfl
@[simp] theorem State.setReg_st (s : State) (x : Reg) (b : Byte) : (s.setReg x b).st = s.st := rfl
@[simp] theorem State.setReg_fb (s : State) (x : Reg) (b : Byte) : (s.setReg x b).fb = s.fb := rfl
@[simp] theorem State.setReg_dc (s : State) (x : Reg) (b : Byte) : (s.setReg x b).dc = s.dc := rfl
@[simp] theorem State.setReg_fade (s : State) (x : Reg) (b : Byte) : (s.setReg x b).fade = s.fade := rfl
@[simp] theorem State.setReg_rs (s : State) (x : Reg) (b : Byte) : (s.setReg x b).rs = s.rs := rfl
@[simp] theorem State.setReg_edge (s : State) (x : Reg) (b : Byte) : (s.setReg x b).edge = s.edge := rfl
@[simp] theorem State.setReg_draws (s : State) (x : Reg) (b : Byte) : (s.setReg x b).draws = s.draws := rfl

/-! #### `setWithFlag` -/

@[simp] theorem State.setWithFlag_mem (s : State) (x : Reg) (b : Byte) (c : Bool) : (s.setWithFlag x b c).mem = s.mem := rfl
@[simp] theorem State.setWithFlag_v (s : State) (x : Reg) (b : Byte) (c : Bool) : (s.setWithFlag x b c).v = (s.v.set x.val b).set 15 (flagByte c) := rfl
@[simp] theorem State.setWithFlag_i (s : State) (x : Reg) (b : Byte) (c : Bool) : (s.setWithFlag x b c).i = s.i := rfl
@[simp] theorem State.setWithFlag_pc (s : State) (x : Reg) (b : Byte) (c : Bool) : (s.setWithFlag x b c).pc = s.pc := rfl
@[simp] theorem State.setWithFlag_stack (s : State) (x : Reg) (b : Byte) (c : Bool) : (s.setWithFlag x b c).stack = s.stack := rfl
@[simp] theorem State.setWithFlag_sp (s : State) (x : Reg) (b : Byte) (c : Bool) : (s.setWithFlag x b c).sp = s.sp := rfl
@[simp] theorem State.setWithFlag_dt (s : State) (x : Reg) (b : Byte) (c : Bool) : (s.setWithFlag x b c).dt = s.dt := rfl
@[simp] theorem State.setWithFlag_st (s : State) (x : Reg) (b : Byte) (c : Bool) : (s.setWithFlag x b c).st = s.st := rfl
@[simp] theorem State.setWithFlag_fb (s : State) (x : Reg) (b : Byte) (c : Bool) : (s.setWithFlag x b c).fb = s.fb := rfl
@[simp] theorem State.setWithFlag_dc (s : State) (x : Reg) (b : Byte) (c : Bool) : (s.setWithFlag x b c).dc = s.dc := rfl
@[simp] theorem State.setWithFlag_fade (s : State) (x : Reg) (b : Byte) (c : Bool) : (s.setWithFlag x b c).fade = s.fade := rfl
@[simp] theorem State.setWithFlag_rs (s : State) (x : Reg) (b : Byte) (c : Bool) : (s.setWithFlag x b c).rs = s.rs := rfl
@[simp] theorem State.setWithFlag_edge (s : State) (x : Reg) (b : Byte) (c : Bool) : (s.setWithFlag x b c).edge = s.edge := rfl
@[simp] theorem State.setWithFlag_draws (s : State) (x : Reg) (b : Byte) (c : Bool) : (s.setWithFlag x b c).draws = s.draws := rfl

/-! #### `tick` -/

@[simp] theorem State.tick_mem (s : State) : s.tick.mem = s.mem := rfl
@[simp] theorem State.tick_v (s : State) : s.tick.v = s.v := rfl
@[simp] theorem State.tick_i (s : State) : s.tick.i = s.i := rfl
@[simp] theorem State.tick_pc (s : State) : s.tick.pc = s.pc := rfl
@[simp] theorem State.tick_stack (s : State) : s.tick.stack = s.stack := rfl
@[simp] theorem State.tick_sp (s : State) : s.tick.sp = s.sp := rfl
@[simp] theorem State.tick_dt (s : State) : s.tick.dt = tickTimer s.dt := rfl
@[simp] theorem State.tick_st (s : State) : s.tick.st = tickTimer s.st := rfl
@[simp] theorem State.tick_fb (s : State) : s.tick.fb = s.fb := rfl
@[simp] theorem State.tick_dc (s : State) : s.tick.dc = s.dc := rfl
@[simp] theorem State.tick_fade (s : State) : s.tick.fade = s.fade := rfl
@[simp] theorem State.tick_rs (s : State) : s.tick.rs = s.rs := rfl
@[simp] theorem State.tick_edge (s : State) : s.tick.edge = s.edge := rfl
@[simp] theorem State.tick_draws (s : State) : s.tick.draws = s.draws := rfl

/-! #### `clearDc` -/

@[simp] theorem State.clearDc_mem (s : State) : s.clearDc.mem = s.mem := rfl
@[simp] theorem State.clearDc_v (s : State) : s.clearDc.v = s.v := rfl
@[simp] theorem State.clearDc_i (s : State) : s.clearDc.i = s.i := rfl
@[simp] theorem State.clearDc_pc (s : State) : s.clearDc.pc = s.pc := rfl
@[simp] theorem State.clearDc_stack (s : State) : s.clearDc.stack = s.stack := rfl
@[simp] theorem State.clearDc_sp (s : State) : s.clearDc.sp = s.sp := rfl
@[simp] theorem State.clearDc_dt (s : State) : s.clearDc.dt = s.dt := rfl
@[simp] theorem State.clearDc_st (s : State) : s.clearDc.st = s.st := rfl
@[simp] theorem State.clearDc_fb (s : State) : s.clearDc.fb = s.fb := rfl
@[simp] theorem State.clearDc_dc (s : State) : s.clearDc.dc = false := rfl
@[simp] theorem State.clearDc_fade (s : State) : s.clearDc.fade = s.fade := rfl
@[simp] theorem State.clearDc_rs (s : State) : s.clearDc.rs = s.rs := rfl
@[simp] theorem State.clearDc_edge (s : State) : s.clearDc.edge = s.edge := rfl
@[simp] theorem State.clearDc_draws (s : State) : s.clearDc.draws = s.draws := rfl

/-! #### `environment` -/

@[simp] theorem State.environment_mem (s : State) : s.environment.mem = s.mem := rfl
@[simp] theorem State.environment_v (s : State) : s.environment.v = s.v := rfl
@[simp] theorem State.environment_i (s : State) : s.environment.i = s.i := rfl
@[simp] theorem State.environment_pc (s : State) : s.environment.pc = s.pc := rfl
@[simp] theorem State.environment_stack (s : State) : s.environment.stack = s.stack := rfl
@[simp] theorem State.environment_sp (s : State) : s.environment.sp = s.sp := rfl
@[simp] theorem State.environment_dt (s : State) : s.environment.dt = tickTimerBy (Config.ticks s.draws) s.dt := rfl
@[simp] theorem State.environment_st (s : State) : s.environment.st = tickTimerBy (Config.ticks s.draws) s.st := rfl
@[simp] theorem State.environment_fb (s : State) : s.environment.fb = s.fb := rfl
@[simp] theorem State.environment_dc (s : State) : s.environment.dc = if s.dc then !Config.hostClearsDc s.draws else false := rfl
@[simp] theorem State.environment_fade (s : State) : s.environment.fade = s.fade := rfl
@[simp] theorem State.environment_rs (s : State) : s.environment.rs = s.rs := rfl
@[simp] theorem State.environment_edge (s : State) : s.environment.edge = s.edge := rfl
@[simp] theorem State.environment_draws (s : State) : s.environment.draws = s.draws + 1 := rfl

/-! #### Registers -/

@[simp] theorem State.reg_setReg_self (s : State) (x : Reg) (b : Byte) : (s.setReg x b).reg x = b := by
  simp [State.reg]

theorem State.reg_setReg_of_ne (s : State) {x r : Reg} (b : Byte) (h : r ≠ x) : (s.setReg x b).reg r = s.reg r := by
  have hv : x.val ≠ r.val := fun e => h (Fin.ext e.symm)
  simp [State.reg, Vector.getElem_set_ne _ _ hv]

/-- Reading any register after one is written. -/
theorem State.reg_setReg (s : State) (x r : Reg) (b : Byte) :
    (s.setReg x b).reg r = if r = x then b else s.reg r := by
  by_cases h : r = x
  · subst h; simp
  · simp [h, State.reg_setReg_of_ne s b h]

@[simp] theorem State.setMem_reg (s : State) (a : Memory) (r : Reg) : (s.setMem a).reg r = s.reg r := rfl
@[simp] theorem State.setI_reg (s : State) (a : Word) (r : Reg) : (s.setI a).reg r = s.reg r := rfl
@[simp] theorem State.setPc_reg (s : State) (a : Word) (r : Reg) : (s.setPc a).reg r = s.reg r := rfl
@[simp] theorem State.setStack_reg (s : State) (a : Vector Word 16) (r : Reg) : (s.setStack a).reg r = s.reg r := rfl
@[simp] theorem State.setSp_reg (s : State) (a : Fin 17) (r : Reg) : (s.setSp a).reg r = s.reg r := rfl
@[simp] theorem State.setDt_reg (s : State) (a : Byte) (r : Reg) : (s.setDt a).reg r = s.reg r := rfl
@[simp] theorem State.setSt_reg (s : State) (a : Byte) (r : Reg) : (s.setSt a).reg r = s.reg r := rfl
@[simp] theorem State.setFb_reg (s : State) (a : Vector Row 32) (r : Reg) : (s.setFb a).reg r = s.reg r := rfl
@[simp] theorem State.setDc_reg (s : State) (a : Bool) (r : Reg) : (s.setDc a).reg r = s.reg r := rfl
@[simp] theorem State.setFade_reg (s : State) (a : Vector Row 32) (r : Reg) : (s.setFade a).reg r = s.reg r := rfl
@[simp] theorem State.setRs_reg (s : State) (a : RunState) (r : Reg) : (s.setRs a).reg r = s.reg r := rfl
@[simp] theorem State.setEdge_reg (s : State) (a : EdgePolicy) (r : Reg) : (s.setEdge a).reg r = s.reg r := rfl
@[simp] theorem State.setDraws_reg (s : State) (a : Nat) (r : Reg) : (s.setDraws a).reg r = s.reg r := rfl
@[simp] theorem State.advance_reg (s : State) (r : Reg) : s.advance.reg r = s.reg r := rfl
@[simp] theorem State.skipIf_reg (s : State) (c : Bool) (r : Reg) : (s.skipIf c).reg r = s.reg r := rfl
@[simp] theorem State.spendDraw_reg (s : State) (r : Reg) : s.spendDraw.reg r = s.reg r := rfl
@[simp] theorem State.tick_reg (s : State) (r : Reg) : s.tick.reg r = s.reg r := rfl
@[simp] theorem State.clearDc_reg (s : State) (r : Reg) : s.clearDc.reg r = s.reg r := rfl
@[simp] theorem State.environment_reg (s : State) (r : Reg) : s.environment.reg r = s.reg r := rfl

/-- A result with its flag: VF holds the flag, whatever the destination (R171). -/
theorem State.reg_setWithFlag (s : State) (x r : Reg) (b : Byte) (c : Bool) :
    (s.setWithFlag x b c).reg r = if r = vF then flagByte c else if r = x then b else s.reg r := by
  simp [State.setWithFlag, State.reg_setReg]

/-! #### The byte an address reads as -/

@[simp] theorem State.setV_readByte (s : State) (a : Vector Byte 16) (n : Nat) : (s.setV a).readByte n = s.readByte n := rfl
@[simp] theorem State.setI_readByte (s : State) (a : Word) (n : Nat) : (s.setI a).readByte n = s.readByte n := rfl
@[simp] theorem State.setPc_readByte (s : State) (a : Word) (n : Nat) : (s.setPc a).readByte n = s.readByte n := rfl
@[simp] theorem State.setStack_readByte (s : State) (a : Vector Word 16) (n : Nat) : (s.setStack a).readByte n = s.readByte n := rfl
@[simp] theorem State.setSp_readByte (s : State) (a : Fin 17) (n : Nat) : (s.setSp a).readByte n = s.readByte n := rfl
@[simp] theorem State.setDt_readByte (s : State) (a : Byte) (n : Nat) : (s.setDt a).readByte n = s.readByte n := rfl
@[simp] theorem State.setSt_readByte (s : State) (a : Byte) (n : Nat) : (s.setSt a).readByte n = s.readByte n := rfl
@[simp] theorem State.setFb_readByte (s : State) (a : Vector Row 32) (n : Nat) : (s.setFb a).readByte n = s.readByte n := rfl
@[simp] theorem State.setDc_readByte (s : State) (a : Bool) (n : Nat) : (s.setDc a).readByte n = s.readByte n := rfl
@[simp] theorem State.setFade_readByte (s : State) (a : Vector Row 32) (n : Nat) : (s.setFade a).readByte n = s.readByte n := rfl
@[simp] theorem State.setRs_readByte (s : State) (a : RunState) (n : Nat) : (s.setRs a).readByte n = s.readByte n := rfl
@[simp] theorem State.setEdge_readByte (s : State) (a : EdgePolicy) (n : Nat) : (s.setEdge a).readByte n = s.readByte n := rfl
@[simp] theorem State.setDraws_readByte (s : State) (a : Nat) (n : Nat) : (s.setDraws a).readByte n = s.readByte n := rfl
@[simp] theorem State.advance_readByte (s : State) (n : Nat) : s.advance.readByte n = s.readByte n := rfl
@[simp] theorem State.skipIf_readByte (s : State) (c : Bool) (n : Nat) : (s.skipIf c).readByte n = s.readByte n := rfl
@[simp] theorem State.spendDraw_readByte (s : State) (n : Nat) : s.spendDraw.readByte n = s.readByte n := rfl
@[simp] theorem State.setReg_readByte (s : State) (x : Reg) (b : Byte) (n : Nat) : (s.setReg x b).readByte n = s.readByte n := rfl
@[simp] theorem State.setWithFlag_readByte (s : State) (x : Reg) (b : Byte) (c : Bool) (n : Nat) : (s.setWithFlag x b c).readByte n = s.readByte n := rfl
@[simp] theorem State.tick_readByte (s : State) (n : Nat) : s.tick.readByte n = s.readByte n := rfl
@[simp] theorem State.clearDc_readByte (s : State) (n : Nat) : s.clearDc.readByte n = s.readByte n := rfl
@[simp] theorem State.environment_readByte (s : State) (n : Nat) : s.environment.readByte n = s.readByte n := rfl
@[simp] theorem State.setMem_readByte (s : State) (m : Memory) (n : Nat) : (s.setMem m).readByte n = m.get n := rfl

/-- Two states are equal when their fields are. -/
theorem State.eq_of_fields {s t : State} (mem : s.mem = t.mem) (v : s.v = t.v) (i : s.i = t.i) (pc : s.pc = t.pc)
    (stack : s.stack = t.stack) (sp : s.sp = t.sp) (dt : s.dt = t.dt) (st : s.st = t.st) (fb : s.fb = t.fb)
    (dc : s.dc = t.dc) (fade : s.fade = t.fade) (rs : s.rs = t.rs) (edge : s.edge = t.edge)
    (draws : s.draws = t.draws) : s = t := by
  cases s; cases t; simp_all

/-- Two register files are equal when every register reads the same. -/
theorem State.v_eq_of_reg {s t : State} (h : ∀ r : Reg, s.reg r = t.reg r) : s.v = t.v := by
  apply Vector.ext
  intro k hk
  exact h ⟨k, hk⟩

end Sys2Proof.Machine
end

