-- ==== Sys2Proof/Laws/Memory.lean ====
section
/-! SUPPORT. The laws of memory: a read after a write, the canonical form kept by every operation, equal readings are
equal memories. -/

namespace Sys2Proof.Machine

@[simp] theorem Memory.get_nil (a : Nat) : Memory.get [] a = unlistedByte a := rfl

@[simp] theorem Memory.get_cons (c : Host.Cell) (m : Memory) (a : Nat) :
    Memory.get (c :: m) a = if a = c.1 then c.2 else Memory.get m a := rfl

theorem Memory.wf_nil : Memory.wf [] := ⟨List.Pairwise.nil, by simp⟩

theorem Memory.wf_tail {c : Host.Cell} {m : Memory} (h : Memory.wf (c :: m)) : Memory.wf m :=
  ⟨(List.pairwise_cons.mp h.1).2, fun d hd => h.2 d (List.mem_cons_of_mem _ hd)⟩

/-- An address that is not listed reads as its reset contents. -/
theorem Memory.get_of_not_listed {m : Memory} {a : Nat} (h : ∀ c ∈ m, a ≠ c.1) : m.get a = unlistedByte a := by
  induction m with
  | nil => rfl
  | cons c m ih =>
    rw [Memory.get_cons, if_neg (h c (List.mem_cons_self ..))]
    exact ih fun d hd => h d (List.mem_cons_of_mem _ hd)

/-- Below the first listed address everything reads as its reset contents. -/
theorem Memory.get_of_lt_head {c : Host.Cell} {m : Memory} (h : Memory.wf (c :: m)) {a : Nat} (ha : a < c.1) :
    Memory.get (c :: m) a = unlistedByte a := by
  apply Memory.get_of_not_listed
  intro d hd
  rcases List.mem_cons.mp hd with rfl | hd
  · omega
  · have := (List.pairwise_cons.mp h.1).1 d hd
    omega

/-- A byte written reads back. -/
theorem Memory.get_put_self {m : Memory} (h : m.wf) (a : Nat) (x : Byte) : (m.put a x).get a = x := by
  induction m with
  | nil => unfold Memory.put; split <;> simp_all
  | cons c m ih =>
    obtain ⟨b, w⟩ := c
    unfold Memory.put
    by_cases hab : a < b
    · rw [if_pos hab]
      split
      · rename_i hx
        rw [Memory.get_of_lt_head h hab, hx]
      · simp
    · rw [if_neg hab]
      by_cases he : a = b
      · subst he
        rw [if_pos rfl]
        split
        · rename_i hx
          rw [hx]
          exact Memory.get_of_not_listed fun d hd => Nat.ne_of_lt ((List.pairwise_cons.mp h.1).1 d hd)
        · simp
      · rw [if_neg he, Memory.get_cons, if_neg he]
        exact ih (Memory.wf_tail h)

/-- A write leaves every other byte alone. -/
theorem Memory.get_put_of_ne (m : Memory) {a d : Nat} (x : Byte) (h : d ≠ a) : (m.put a x).get d = m.get d := by
  induction m with
  | nil => unfold Memory.put; split <;> simp [h]
  | cons c m ih =>
    obtain ⟨b, w⟩ := c
    unfold Memory.put
    split
    · split <;> simp [h]
    · split
      · rename_i he
        subst he
        split <;> simp [h]
      · simp [ih]

/-- Every entry of a written memory is the new one or an old one. -/
theorem Memory.mem_put {m : Memory} {a : Nat} {x : Byte} {c : Host.Cell} (hc : c ∈ m.put a x) :
    (c = (a, x) ∧ x ≠ unlistedByte a) ∨ c ∈ m := by
  induction m with
  | nil =>
    unfold Memory.put at hc
    split at hc
    · cases hc
    · exact .inl ⟨by simpa using hc, ‹_›⟩
  | cons d m ih =>
    obtain ⟨b, w⟩ := d
    unfold Memory.put at hc
    split at hc
    · split at hc
      · exact .inr hc
      · rcases List.mem_cons.mp hc with rfl | hc
        · exact .inl ⟨rfl, ‹_›⟩
        · exact .inr hc
    · split at hc
      · split at hc
        · exact .inr (List.mem_cons_of_mem _ hc)
        · rcases List.mem_cons.mp hc with rfl | hc
          · exact .inl ⟨rfl, ‹_›⟩
          · exact .inr (List.mem_cons_of_mem _ hc)
      · rcases List.mem_cons.mp hc with rfl | hc
        · exact .inr (List.mem_cons_self ..)
        · rcases ih hc with h | h
          · exact .inl h
          · exact .inr (List.mem_cons_of_mem _ h)

/-- A write at an address of the machine keeps the canonical form. -/
theorem Memory.wf_put {m : Memory} (h : m.wf) {a : Nat} (ha : a < Config.memSize) (x : Byte) : (m.put a x).wf := by
  refine ⟨?_, ?_⟩
  · induction m with
    | nil => unfold Memory.put; split <;> simp
    | cons c m ih =>
      obtain ⟨b, w⟩ := c
      have hp := List.pairwise_cons.mp h.1
      unfold Memory.put
      split
      · split
        · exact h.1
        · rename_i hab _
          refine List.pairwise_cons.mpr ⟨?_, h.1⟩
          intro d hd
          rcases List.mem_cons.mp hd with rfl | hd
          · exact hab
          · exact Nat.lt_trans hab (hp.1 d hd)
      · split
        · rename_i he
          subst he
          split
          · exact hp.2
          · exact List.pairwise_cons.mpr ⟨hp.1, hp.2⟩
        · refine List.pairwise_cons.mpr ⟨?_, ih (Memory.wf_tail h)⟩
          intro d hd
          rcases Memory.mem_put hd with ⟨rfl, _⟩ | hd
          · simp only; omega
          · exact hp.1 d hd
  · intro c hc
    rcases Memory.mem_put hc with ⟨rfl, hx⟩ | hc
    · exact ⟨ha, hx⟩
    · exact h.2 c hc

@[simp] theorem Memory.length_getRange (m : Memory) (base n : Nat) : (m.getRange base n).length = n := by
  induction n generalizing base with
  | zero => rfl
  | succ n ih => simp [Memory.getRange, ih]

/-- Byte k of a range read is the byte at base + k. -/
theorem Memory.getElem?_getRange (m : Memory) (base n k : Nat) (hk : k < n) :
    (m.getRange base n)[k]? = some (m.get (base + k)) := by
  induction n generalizing base k with
  | zero => omega
  | succ n ih =>
    cases k with
    | zero => simp [Memory.getRange]
    | succ k =>
      have := ih (base + 1) k (by omega)
      simp only [Memory.getRange, List.getElem?_cons_succ, this]
      congr 2
      omega

/-- Bytes written at `base` and up keep the canonical form. -/
theorem Memory.wf_putRange {m : Memory} (h : m.wf) {base : Nat} {bytes : List Byte}
    (hb : bytes.length = 0 ∨ base + bytes.length ≤ Config.memSize) : (m.putRange base bytes).wf := by
  induction bytes generalizing m base with
  | nil => exact h
  | cons b bytes ih =>
    simp only [List.length_cons] at hb
    exact ih (Memory.wf_put h (by omega) b) (by omega)

/-- Outside the bytes written every address reads as before. -/
theorem Memory.get_putRange_outside (m : Memory) (base : Nat) (bytes : List Byte) {a : Nat}
    (h : a < base ∨ base + bytes.length ≤ a) : (m.putRange base bytes).get a = m.get a := by
  induction bytes generalizing m base with
  | nil => rfl
  | cons b bytes ih =>
    simp only [List.length_cons] at h
    simp only [Memory.putRange]
    rw [ih (m.put base b) (base + 1) (by omega), Memory.get_put_of_ne _ _ (by omega)]

/-- Byte k of the bytes written reads back at base + k. -/
theorem Memory.get_putRange_inside {m : Memory} (hm : m.wf) {base : Nat} {bytes : List Byte}
    (hb : base + bytes.length ≤ Config.memSize) (k : Nat) (hk : k < bytes.length) :
    (m.putRange base bytes).get (base + k) = bytes[k] := by
  induction bytes generalizing m base k with
  | nil => simp at hk
  | cons b bytes ih =>
    simp only [List.length_cons] at hb hk
    simp only [Memory.putRange]
    cases k with
    | zero =>
      rw [Memory.get_putRange_outside _ _ _ (by omega)]
      simpa using Memory.get_put_self hm base b
    | succ k =>
      have := ih (Memory.wf_put hm (by omega : base < Config.memSize) b) (base := base + 1) (by omega) k (by omega)
      simpa [Nat.add_assoc, Nat.add_comm 1 k] using this

/-- Equal readings are equal memories: the canonical form is unique. -/
theorem Memory.eq_of_get {m n : Memory} (hm : m.wf) (hn : n.wf) (h : ∀ a, m.get a = n.get a) : m = n := by
  induction m generalizing n with
  | nil =>
    cases n with
    | nil => rfl
    | cons d n =>
      have := h d.1
      simp at this
      exact absurd this.symm (hn.2 d (List.mem_cons_self ..)).2
  | cons c m ih =>
    cases n with
    | nil =>
      have := h c.1
      simp at this
      exact absurd this (hm.2 c (List.mem_cons_self ..)).2
    | cons d n =>
      have hc := (hm.2 c (List.mem_cons_self ..)).2
      have hd := (hn.2 d (List.mem_cons_self ..)).2
      have hcd : c.1 = d.1 := by
        rcases Nat.lt_trichotomy c.1 d.1 with hlt | heq | hgt
        · have := h c.1
          rw [Memory.get_of_lt_head hn hlt] at this
          simp at this
          exact absurd this hc
        · exact heq
        · have := h d.1
          rw [Memory.get_of_lt_head hm hgt] at this
          simp at this
          exact absurd this.symm hd
      have hv : c.2 = d.2 := by
        have := h c.1
        simpa [hcd] using this
      have hcd' : c = d := Prod.ext hcd hv
      subst hcd'
      congr 1
      refine ih (Memory.wf_tail hm) (Memory.wf_tail hn) fun a => ?_
      by_cases ha : a = c.1
      · have h1 : Memory.get m a = unlistedByte a := Memory.get_of_not_listed fun e he => by
          have := (List.pairwise_cons.mp hm.1).1 e he
          omega
        have h2 : Memory.get n a = unlistedByte a := Memory.get_of_not_listed fun e he => by
          have := (List.pairwise_cons.mp hn.1).1 e he
          omega
        rw [h1, h2]
      · have := h a
        simpa [ha] using this

/-- The reset memory is in canonical form. -/
theorem State.reset_mem_wf : State.reset.mem.wf := Memory.wf_nil

end Sys2Proof.Machine
end

