-- ==== Sys2Proof/Laws/Ops.lean ====
section
/-! SUPPORT. For each shared operation what it can do, said once: when it answers and with what. -/

namespace Sys2Proof.Machine

/-! ### Ranges of memory -/

theorem rangeInMemory_iff (base n : Nat) : rangeInMemory base n = true ↔ n = 0 ∨ base + n ≤ Config.memSize := by
  simp [rangeInMemory]

/-- A checked read answers exactly when its range is in memory. -/
theorem State.loadBytes_eq_some {s : State} {base n : Nat} {bytes : List Byte} :
    s.loadBytes base n = some bytes ↔
      (n = 0 ∨ base + n ≤ Config.memSize) ∧ bytes = s.mem.getRange base n := by
  simp only [State.loadBytes]
  split <;> rename_i h
  · simp [(rangeInMemory_iff base n).mp h, eq_comm]
  · have h' := mt (rangeInMemory_iff base n).mpr h
    simp [h']

theorem State.loadBytes_eq_none {s : State} {base n : Nat} :
    s.loadBytes base n = none ↔ n ≠ 0 ∧ Config.memSize < base + n := by
  simp only [State.loadBytes]
  split <;> rename_i h
  · have := (rangeInMemory_iff base n).mp h
    simp only [reduceCtorEq, false_iff]
    omega
  · have := mt (rangeInMemory_iff base n).mpr h
    simp only [true_iff]
    omega

/-- Byte k of a checked read. -/
theorem State.getElem?_of_loadBytes {s : State} {base n : Nat} {bytes : List Byte}
    (h : s.loadBytes base n = some bytes) (k : Nat) (hk : k < n) : bytes[k]? = some (s.readByte (base + k)) := by
  rw [(State.loadBytes_eq_some.mp h).2]
  exact Memory.getElem?_getRange _ _ _ _ hk

theorem State.length_of_loadBytes {s : State} {base n : Nat} {bytes : List Byte}
    (h : s.loadBytes base n = some bytes) : bytes.length = n := by
  rw [(State.loadBytes_eq_some.mp h).2, Memory.length_getRange]

/-- A checked write answers exactly when its range is in memory, and changes memory only. -/
theorem State.storeBytes_eq_some {s t : State} {base : Nat} {bytes : List Byte} :
    s.storeBytes base bytes = some t ↔
      (bytes.length = 0 ∨ base + bytes.length ≤ Config.memSize) ∧ t = s.setMem (s.mem.putRange base bytes) := by
  simp only [State.storeBytes]
  split <;> rename_i h
  · have h' := (rangeInMemory_iff base bytes.length).mp h
    rw [Option.some.injEq, eq_comm]
    exact ⟨fun ht => ⟨h', ht⟩, fun ht => ht.2⟩
  · have h' := mt (rangeInMemory_iff base bytes.length).mpr h
    simp only [reduceCtorEq, false_iff, not_and]
    exact fun h'' => absurd h'' h'

theorem State.storeBytes_eq_none {s : State} {base : Nat} {bytes : List Byte} :
    s.storeBytes base bytes = none ↔ bytes.length ≠ 0 ∧ Config.memSize < base + bytes.length := by
  simp only [State.storeBytes]
  split <;> rename_i h
  · have := (rangeInMemory_iff base bytes.length).mp h
    simp only [reduceCtorEq, false_iff]
    omega
  · have := mt (rangeInMemory_iff base bytes.length).mpr h
    simp only [true_iff]
    omega

/-- A checked write leaves every byte outside its range as it was. -/
theorem State.readByte_of_storeBytes_outside {s t : State} {base : Nat} {bytes : List Byte}
    (h : s.storeBytes base bytes = some t) {a : Nat} (ha : a < base ∨ base + bytes.length ≤ a) :
    t.readByte a = s.readByte a := by
  rw [(State.storeBytes_eq_some.mp h).2]
  exact Memory.get_putRange_outside _ _ _ ha

/-- The bytes of a checked write read back. -/
theorem State.readByte_of_storeBytes_inside {s t : State} (hm : s.mem.wf) {base : Nat} {bytes : List Byte}
    (h : s.storeBytes base bytes = some t) (k : Nat) (hk : k < bytes.length) :
    t.readByte (base + k) = bytes[k] := by
  obtain ⟨hr, rfl⟩ := State.storeBytes_eq_some.mp h
  exact Memory.get_putRange_inside hm (by omega) k hk

/-- A checked write keeps the canonical form. -/
theorem State.wf_of_storeBytes {s t : State} (hm : s.mem.wf) {base : Nat} {bytes : List Byte}
    (h : s.storeBytes base bytes = some t) : t.mem.wf := by
  obtain ⟨hr, rfl⟩ := State.storeBytes_eq_some.mp h
  exact Memory.wf_putRange hm hr

/-- A fetch answers exactly when `PC` and `PC + 1` are in memory. -/
theorem State.fetch_eq_some {s : State} {w : Word} :
    s.fetch = some w ↔
      s.pc.toNat ≤ 4094 ∧ w = bytesToWord (s.readByte s.pc.toNat) (s.readByte (s.pc.toNat + 1)) := by
  simp only [State.fetch, rangeInMemory, Config.memSize]
  by_cases h : s.pc.toNat ≤ 4094
  · have h' : s.pc.toNat + 2 ≤ 4096 := by omega
    simp [h, h', eq_comm]
  · have h' : ¬ s.pc.toNat + 2 ≤ 4096 := by omega
    simp [h, h']

theorem State.fetch_eq_none {s : State} : s.fetch = none ↔ 4095 ≤ s.pc.toNat := by
  simp only [State.fetch, rangeInMemory, Config.memSize]
  by_cases h : s.pc.toNat ≤ 4094
  · have h' : s.pc.toNat + 2 ≤ 4096 := by omega
    simp only [h', decide_true, Bool.or_true, if_true, reduceCtorEq, false_iff]
    omega
  · have h' : ¬ s.pc.toNat + 2 ≤ 4096 := by omega
    simp [h']
    omega

/-- A fetch reads `PC` and memory only. -/
theorem State.fetch_congr {s t : State} (hp : t.pc = s.pc) (hm : t.mem = s.mem) : t.fetch = s.fetch := by
  simp [State.fetch, State.readByte, hp, hm]

/-! ### The call stack -/

/-- A push answers exactly below 16 entries: the entry at `SP` and `SP` change, nothing else. -/
theorem State.push_eq_some {s t : State} {w : Word} :
    s.push w = some t ↔
      ∃ h : s.sp.val < 16, t = (s.setStack (s.stack.set s.sp.val w h)).setSp ⟨s.sp.val + 1, by omega⟩ := by
  simp only [State.push]
  split <;> rename_i h
  · simp [h, eq_comm]
  · simp [h]

theorem State.push_eq_none {s : State} {w : Word} : s.push w = none ↔ s.sp.val = 16 := by
  simp only [State.push]
  split <;> rename_i h
  · simp only [reduceCtorEq, false_iff]
    omega
  · simp only [true_iff]
    omega

/-- A pop answers exactly above 0 entries: only `SP` changes, the entry keeps its value. -/
theorem State.pop_eq_some {s t : State} {w : Word} :
    s.pop = some (w, t) ↔
      ∃ _h : s.sp.val ≠ 0, w = s.stack[s.sp.val - 1]'(by omega) ∧ t = s.setSp ⟨s.sp.val - 1, by omega⟩ := by
  simp only [State.pop]
  split
  · rename_i h
    simp [h]
  · rename_i h
    simp [h, eq_comm]

theorem State.pop_eq_none {s : State} : s.pop = none ↔ s.sp.val = 0 := by
  simp only [State.pop]
  split <;> rename_i h <;> simp [h]

/-! ### Blocks of registers -/

theorem length_regsThrough (s : State) (x : Reg) : (s.regsThrough x).length = x.val + 1 := by
  simp [State.regsThrough]

/-- Byte k of the registers through x is `V[k]`. -/
theorem getElem?_regsThrough (s : State) (x : Reg) (k : Reg) (hk : k.val ≤ x.val) :
    (s.regsThrough x)[k.val]? = some (s.reg k) := by
  simp only [State.regsThrough, State.reg]
  rw [List.getElem?_take_of_lt (by omega)]
  simp

theorem getElem_putRegs (v : Vector Byte 16) (k : Nat) (bytes : List Byte) (r : Nat) (hr : r < 16) :
    (putRegs v k bytes)[r] = if h : k ≤ r ∧ r - k < bytes.length then bytes[r - k]'h.2 else v[r] := by
  induction bytes generalizing v k with
  | nil => simp [putRegs]
  | cons b bytes ih =>
    rw [putRegs, ih]
    by_cases h1 : k + 1 ≤ r ∧ r - (k + 1) < bytes.length
    · have h2 : k ≤ r ∧ r - k < (b :: bytes).length := by simp; omega
      rw [dif_pos h1, dif_pos h2]
      have : r - k = (r - (k + 1)) + 1 := by omega
      simp [this]
    · rw [dif_neg h1]
      by_cases h2 : k = r
      · subst h2
        simp
      · rw [Vector.getElem_setIfInBounds_ne _ h2]
        have h3 : ¬ (k ≤ r ∧ r - k < (b :: bytes).length) := by simp; omega
        rw [dif_neg h3]

/-- After a block of bytes goes to registers 0 and up: the first registers hold it, the others are unchanged. -/
theorem reg_setV_putRegs (s : State) (bytes : List Byte) (r : Reg) :
    (s.setV (putRegs s.v 0 bytes)).reg r = (bytes[r.val]?).getD (s.reg r) := by
  simp only [State.reg, State.setV_v]
  rw [getElem_putRegs]
  by_cases h : r.val < bytes.length
  · simp [h]
  · simp [h]

/-! ### Keys and timers -/

theorem keyNumber_eq_some {b : Byte} {k : Key} : keyNumber b = some k ↔ b.toNat = k.val := by
  simp only [keyNumber]
  split <;> rename_i h
  · simp [Fin.ext_iff]
  · simp
    omega

theorem keyNumber_eq_none {b : Byte} : keyNumber b = none ↔ 16 ≤ b.toNat := by
  simp only [keyNumber]
  split <;> rename_i h <;> simp <;> omega

theorem toNat_tickTimerBy (n : Nat) (t : Byte) : (tickTimerBy n t).toNat = t.toNat - n := by
  simp only [tickTimerBy]
  split <;> rename_i h
  · simp [h]
  · simp
    omega

theorem tickTimerBy_zero (t : Byte) : tickTimerBy 0 t = t := BitVec.eq_of_toNat_eq (by simp [toNat_tickTimerBy])

/-- One tick more is a tick after the others. -/
theorem tickTimerBy_succ (n : Nat) (t : Byte) : tickTimerBy (n + 1) t = tickTimer (tickTimerBy n t) :=
  BitVec.eq_of_toNat_eq (by
    have : tickTimer (tickTimerBy n t) = tickTimerBy 1 (tickTimerBy n t) := rfl
    rw [this, toNat_tickTimerBy, toNat_tickTimerBy, toNat_tickTimerBy]
    omega)

/-! ### Drawing -/

theorem displayRow_drop {y0 r : Nat} {d : Fin 32} : displayRow .drop y0 r = some d ↔ y0 + r = d.val := by
  simp only [displayRow]
  split <;> rename_i h
  · simp [Fin.ext_iff]
  · simp
    omega

/-- A dropped row leaves the canvas alone. -/
theorem drawRow_of_dropped {p : EdgePolicy} {x0 y0 r : Nat} (b : Byte) (c : Canvas)
    (h : displayRow p y0 r = none) : drawRow p x0 y0 r b c = c := by
  simp [drawRow, h]

/-- A drawn row is XORed into its display row and every other row is left alone. -/
theorem fb_drawRow {p : EdgePolicy} {x0 y0 r : Nat} {d : Fin 32} (b : Byte) (c : Canvas)
    (h : displayRow p y0 r = some d) (k : Nat) (hk : k < 32) :
    (drawRow p x0 y0 r b c).fb[k] = if k = d.val then c.fb[k] ^^^ alignedRow p b x0 else c.fb[k] := by
  simp only [drawRow, h, blendRow]
  by_cases hkd : k = d.val
  · subst hkd; simp
  · rw [Vector.getElem_set_ne _ _ (fun e => hkd e.symm), if_neg hkd]

/-- The overlay row of a drawn row is its collision row; every other overlay row is left alone. -/
theorem fade_drawRow {p : EdgePolicy} {x0 y0 r : Nat} {d : Fin 32} (b : Byte) (c : Canvas)
    (h : displayRow p y0 r = some d) (k : Nat) (hk : k < 32) :
    (drawRow p x0 y0 r b c).fade[k] = if k = d.val then c.fb[k] &&& alignedRow p b x0 else c.fade[k] := by
  simp only [drawRow, h, blendRow]
  by_cases hkd : k = d.val
  · subst hkd; simp
  · rw [Vector.getElem_set_ne _ _ (fun e => hkd e.symm), if_neg hkd]

/-! ### Steps -/

theorem onNext_eq_next {f : State → State} {a : Answer} {t : State} :
    onNext f a = .next t ↔ ∃ u, a = .next u ∧ t = f u := by
  cases a <;> simp [onNext, eq_comm]

theorem raise_eq_next {k : Fault} {s t : State} : raise k s = .next t ↔ t = s.setRs (.faulted k) := by
  simp [raise, eq_comm]

/-- Everything a `Step()` that answers a next state can have been: a wait, a fetch error, an illegal word, or the execute
stage of the fetched instruction. -/
theorem cpuStep_cases {s t : State} (h : cpuStep s = .next t) :
    (∃ x, s.rs = .awaitingKey x ∧ t = s) ∨
    (s.rs = .running ∧ s.fetch = none ∧ t = s.setRs (.faulted .outOfBoundsMemoryAccess)) ∨
    (s.rs = .running ∧ ∃ w e, s.fetch = some w ∧ decode w = .error e ∧ t = s.setRs (.faulted .unrecognizedOpcode)) ∨
    (s.rs = .running ∧ ∃ w i, s.fetch = some w ∧ decode w = .ok i ∧ exec i s = .next t) := by
  unfold cpuStep at h
  split at h
  · cases h
  · rename_i x hx
    exact .inl ⟨x, hx, by simpa [eq_comm] using h⟩
  · rename_i hr
    split at h
    · rename_i hf
      exact .inr (.inl ⟨hr, hf, raise_eq_next.mp h⟩)
    · rename_i w hf
      unfold runWord at h
      split at h
      · rename_i e hd
        exact .inr (.inr (.inl ⟨hr, w, e, hf, hd, raise_eq_next.mp h⟩))
      · rename_i i hd
        exact .inr (.inr (.inr ⟨hr, w, i, hf, hd, h⟩))

/-- Everything a transition of the CPU that answers a next state can have been: a completed wait or a `Step()`. -/
theorem cpuTurn_cases {s t : State} (h : cpuTurn s = .next t) :
    (∃ x k, s.rs = .awaitingKey x ∧ Config.keyEvent s.draws = some k ∧ t = s.keyPress k) ∨ cpuStep s = .next t := by
  unfold cpuTurn at h
  split at h
  · rename_i x hx
    split at h
    · rename_i k hk
      exact .inl ⟨x, k, hx, hk, by simpa [eq_comm] using h⟩
    · exact .inr h
  · exact .inr h
  · exact .inr h

/-- A key event that completes a wait. -/
theorem State.keyPress_of_awaiting {s : State} {x : Reg} (h : s.rs = .awaitingKey x) (k : Key) :
    s.keyPress k = ((s.setReg x (keyByte k)).advance).setRs .running := by
  simp [State.keyPress, h]

/-- A step that answers a next state is a transition of the CPU and then the environment's moves. -/
theorem step_eq_next {s t : State} : step s = .next t ↔ ∃ u, cpuTurn s = .next u ∧ t = u.environment :=
  onNext_eq_next

end Sys2Proof.Machine
end

