-- ==== Sys2Proof/Laws/PerInstr.lean ====
section
/-! SUPPORT. What holds of every instruction as syntax, one lemma per constructor. Family `EncodesInRow`: the word of the
instruction lies in its row of the opcode map, by the row's mask and match (R104). -/

namespace Sys2Proof.Laws.EncodesInRow

/-- The mask column of the opcode map (R104). -/
def rowMask : Instr → Word
  | .cls => 0xFFFF#16
  | .ret => 0xFFFF#16
  | .jp _ => 0xF000#16
  | .call _ => 0xF000#16
  | .seImm _ _ => 0xF000#16
  | .sneImm _ _ => 0xF000#16
  | .seReg _ _ => 0xF00F#16
  | .ldImm _ _ => 0xF000#16
  | .addImm _ _ => 0xF000#16
  | .ldReg _ _ => 0xF00F#16
  | .orReg _ _ => 0xF00F#16
  | .andReg _ _ => 0xF00F#16
  | .xorReg _ _ => 0xF00F#16
  | .addReg _ _ => 0xF00F#16
  | .sub _ _ => 0xF00F#16
  | .shr _ _ => 0xF00F#16
  | .subn _ _ => 0xF00F#16
  | .shl _ _ => 0xF00F#16
  | .sneReg _ _ => 0xF00F#16
  | .ldI _ => 0xF000#16
  | .jpV0 _ => 0xF000#16
  | .rnd _ _ => 0xF000#16
  | .drw _ _ _ => 0xF000#16
  | .skp _ => 0xF0FF#16
  | .sknp _ => 0xF0FF#16
  | .ldVxDt _ => 0xF0FF#16
  | .ldVxK _ => 0xF0FF#16
  | .ldDtVx _ => 0xF0FF#16
  | .ldStVx _ => 0xF0FF#16
  | .addIVx _ => 0xF0FF#16
  | .ldFVx _ => 0xF0FF#16
  | .ldBVx _ => 0xF0FF#16
  | .ldMemVx _ => 0xF0FF#16
  | .ldVxMem _ => 0xF0FF#16

/-- The match column of the opcode map (R104). -/
def rowMatch : Instr → Word
  | .cls => 0x00E0#16
  | .ret => 0x00EE#16
  | .jp _ => 0x1000#16
  | .call _ => 0x2000#16
  | .seImm _ _ => 0x3000#16
  | .sneImm _ _ => 0x4000#16
  | .seReg _ _ => 0x5000#16
  | .ldImm _ _ => 0x6000#16
  | .addImm _ _ => 0x7000#16
  | .ldReg _ _ => 0x8000#16
  | .orReg _ _ => 0x8001#16
  | .andReg _ _ => 0x8002#16
  | .xorReg _ _ => 0x8003#16
  | .addReg _ _ => 0x8004#16
  | .sub _ _ => 0x8005#16
  | .shr _ _ => 0x8006#16
  | .subn _ _ => 0x8007#16
  | .shl _ _ => 0x800E#16
  | .sneReg _ _ => 0x9000#16
  | .ldI _ => 0xA000#16
  | .jpV0 _ => 0xB000#16
  | .rnd _ _ => 0xC000#16
  | .drw _ _ _ => 0xD000#16
  | .skp _ => 0xE09E#16
  | .sknp _ => 0xE0A1#16
  | .ldVxDt _ => 0xF007#16
  | .ldVxK _ => 0xF00A#16
  | .ldDtVx _ => 0xF015#16
  | .ldStVx _ => 0xF018#16
  | .addIVx _ => 0xF01E#16
  | .ldFVx _ => 0xF029#16
  | .ldBVx _ => 0xF033#16
  | .ldMemVx _ => 0xF055#16
  | .ldVxMem _ => 0xF065#16

/-- The word of the instruction lies in its row: `w & mask == match` (R103, R104). -/
@[reducible] def Statement (i : Instr) : Prop := i.encode &&& rowMask i = rowMatch i

/-- The mask of the first nibble keeps the first nibble. -/
theorem and_first_nibble (w : Word) : w &&& 0xF000#16 = (w >>> 12) <<< 12 := by
  apply BitVec.eq_of_getLsbD_eq
  intro k hk
  interval_cases k <;> simp

theorem first_nibble_of_sum (n1 a : Nat) (_hn : n1 < 16) (ha : a < 4096) :
    BitVec.ofNat 16 (n1 * 4096 + a) &&& 0xF000#16 = BitVec.ofNat 16 (n1 * 4096) := by
  rw [and_first_nibble]
  apply BitVec.eq_of_toNat_eq
  simp only [BitVec.toNat_shiftLeft, BitVec.toNat_ushiftRight, BitVec.toNat_ofNat, Nat.shiftLeft_eq,
    Nat.shiftRight_eq_div_pow]
  omega

theorem wordNnn_row (n1 : Nat) (hn : n1 < 16) (nnn : Word) :
    wordNnn n1 nnn &&& 0xF000#16 = BitVec.ofNat 16 (n1 * 4096) :=
  first_nibble_of_sum n1 _ hn (by omega)

theorem wordXkk_row (n1 : Nat) (hn : n1 < 16) (x : Reg) (kk : Byte) :
    wordXkk n1 x kk &&& 0xF000#16 = BitVec.ofNat 16 (n1 * 4096) := by
  unfold wordXkk
  rw [Nat.add_assoc]
  exact first_nibble_of_sum n1 _ hn (by omega)

theorem cls : Statement (.cls) := by decide

theorem ret : Statement (.ret) := by decide

theorem jp (nnn : Word) : Statement (.jp nnn) := wordNnn_row 0x1 (by decide) nnn

theorem call (nnn : Word) : Statement (.call nnn) := wordNnn_row 0x2 (by decide) nnn

theorem seImm (x : Reg) (kk : Byte) : Statement (.seImm x kk) := wordXkk_row 0x3 (by decide) x kk

theorem sneImm (x : Reg) (kk : Byte) : Statement (.sneImm x kk) := wordXkk_row 0x4 (by decide) x kk

theorem seReg (x y : Reg) : Statement (.seReg x y) := by
  revert x y
  decide

theorem ldImm (x : Reg) (kk : Byte) : Statement (.ldImm x kk) := wordXkk_row 0x6 (by decide) x kk

theorem addImm (x : Reg) (kk : Byte) : Statement (.addImm x kk) := wordXkk_row 0x7 (by decide) x kk

theorem ldReg (x y : Reg) : Statement (.ldReg x y) := by
  revert x y
  decide

theorem orReg (x y : Reg) : Statement (.orReg x y) := by
  revert x y
  decide

theorem andReg (x y : Reg) : Statement (.andReg x y) := by
  revert x y
  decide

theorem xorReg (x y : Reg) : Statement (.xorReg x y) := by
  revert x y
  decide

theorem addReg (x y : Reg) : Statement (.addReg x y) := by
  revert x y
  decide

theorem sub (x y : Reg) : Statement (.sub x y) := by
  revert x y
  decide

theorem shr (x y : Reg) : Statement (.shr x y) := by
  revert x y
  decide

theorem subn (x y : Reg) : Statement (.subn x y) := by
  revert x y
  decide

theorem shl (x y : Reg) : Statement (.shl x y) := by
  revert x y
  decide

theorem sneReg (x y : Reg) : Statement (.sneReg x y) := by
  revert x y
  decide

theorem ldI (nnn : Word) : Statement (.ldI nnn) := wordNnn_row 0xA (by decide) nnn

theorem jpV0 (nnn : Word) : Statement (.jpV0 nnn) := wordNnn_row 0xB (by decide) nnn

theorem rnd (x : Reg) (kk : Byte) : Statement (.rnd x kk) := wordXkk_row 0xC (by decide) x kk

theorem drw (x y : Reg) (n : Nat) : Statement (.drw x y n) := by
  show nibblesToWord 0xD x y (n % 16) &&& 0xF000#16 = _
  unfold nibblesToWord
  rw [show 0xD * 4096 + x.val * 256 + y.val * 16 + n % 16 = 0xD * 4096 + (x.val * 256 + y.val * 16 + n % 16) by omega]
  exact first_nibble_of_sum 0xD _ (by decide) (by omega)

theorem skp (x : Reg) : Statement (.skp x) := by
  revert x
  decide

theorem sknp (x : Reg) : Statement (.sknp x) := by
  revert x
  decide

theorem ldVxDt (x : Reg) : Statement (.ldVxDt x) := by
  revert x
  decide

theorem ldVxK (x : Reg) : Statement (.ldVxK x) := by
  revert x
  decide

theorem ldDtVx (x : Reg) : Statement (.ldDtVx x) := by
  revert x
  decide

theorem ldStVx (x : Reg) : Statement (.ldStVx x) := by
  revert x
  decide

theorem addIVx (x : Reg) : Statement (.addIVx x) := by
  revert x
  decide

theorem ldFVx (x : Reg) : Statement (.ldFVx x) := by
  revert x
  decide

theorem ldBVx (x : Reg) : Statement (.ldBVx x) := by
  revert x
  decide

theorem ldMemVx (x : Reg) : Statement (.ldMemVx x) := by
  revert x
  decide

theorem ldVxMem (x : Reg) : Statement (.ldVxMem x) := by
  revert x
  decide

end Sys2Proof.Laws.EncodesInRow
end

