-- ==== Sys2Proof/Tests/Slice0.lean ====
section
/-! SUPPORT. The model's own tests: ill-formed terms refused, a word of every instruction written out from the opcode map, the
spec's test vectors (`95_test_vectors.md`), and a witness for the hypotheses of every statement that has some. -/

namespace Sys2Proof.Tests

open Sys2Proof.Machine

/-! ### WellFormed refuses an ill-formed term for each check -/

theorem smoke_address_jp : Instr.wellFormed (.jp 0x1000#16) = false := by decide
theorem smoke_address_call : Instr.wellFormed (.call 0xFFFF#16) = false := by decide
theorem smoke_address_ldI : Instr.wellFormed (.ldI 0x1000#16) = false := by decide
theorem smoke_address_jpV0 : Instr.wellFormed (.jpV0 0x8000#16) = false := by decide
theorem smoke_height_drw : Instr.wellFormed (.drw 0 0 16) = false := by decide
theorem smoke_boundary_accepted : Instr.wellFormed (.jp 0xFFF#16) = true ∧ Instr.wellFormed (.drw 0 0 15) = true := by decide

/-! ### A word of every instruction, bit by bit from the encoding column of the opcode table (R104) -/

theorem test_decode_cls : decode 0b0000000011100000#16 = .ok (.cls) := by decide
theorem test_decode_ret : decode 0b0000000011101110#16 = .ok (.ret) := by decide
theorem test_decode_jp : decode 0b0001001001010000#16 = .ok (.jp 0x250#16) := by decide
theorem test_decode_call : decode 0b0010001100000000#16 = .ok (.call 0x300#16) := by decide
theorem test_decode_seImm : decode 0b0011001101000010#16 = .ok (.seImm 3 0x42#8) := by decide
theorem test_decode_sneImm : decode 0b0100001101000010#16 = .ok (.sneImm 3 0x42#8) := by decide
theorem test_decode_seReg : decode 0b0101000100100000#16 = .ok (.seReg 1 2) := by decide
theorem test_decode_ldImm : decode 0b0110101001000010#16 = .ok (.ldImm 10 0x42#8) := by decide
theorem test_decode_addImm : decode 0b0111000000000011#16 = .ok (.addImm 0 0x03#8) := by decide
theorem test_decode_ldReg : decode 0b1000000100100000#16 = .ok (.ldReg 1 2) := by decide
theorem test_decode_orReg : decode 0b1000000100100001#16 = .ok (.orReg 1 2) := by decide
theorem test_decode_andReg : decode 0b1000000100100010#16 = .ok (.andReg 1 2) := by decide
theorem test_decode_xorReg : decode 0b1000000100100011#16 = .ok (.xorReg 1 2) := by decide
theorem test_decode_addReg : decode 0b1000111100010100#16 = .ok (.addReg 15 1) := by decide
theorem test_decode_sub : decode 0b1000000100100101#16 = .ok (.sub 1 2) := by decide
theorem test_decode_shr : decode 0b1000000100100110#16 = .ok (.shr 1 2) := by decide
theorem test_decode_subn : decode 0b1000000100100111#16 = .ok (.subn 1 2) := by decide
theorem test_decode_shl : decode 0b1000000100101110#16 = .ok (.shl 1 2) := by decide
theorem test_decode_sneReg : decode 0b1001000100100000#16 = .ok (.sneReg 1 2) := by decide
theorem test_decode_ldI : decode 0b1010001100000000#16 = .ok (.ldI 0x300#16) := by decide
theorem test_decode_jpV0 : decode 0b1011010100000000#16 = .ok (.jpV0 0x500#16) := by decide
theorem test_decode_rnd : decode 0b1100001100001111#16 = .ok (.rnd 3 0x0F#8) := by decide
theorem test_decode_drw : decode 0b1101000000010101#16 = .ok (.drw 0 1 5) := by decide
theorem test_decode_skp : decode 0b1110001010011110#16 = .ok (.skp 2) := by decide
theorem test_decode_sknp : decode 0b1110001010100001#16 = .ok (.sknp 2) := by decide
theorem test_decode_ldVxDt : decode 0b1111001100000111#16 = .ok (.ldVxDt 3) := by decide
theorem test_decode_ldVxK : decode 0b1111001100001010#16 = .ok (.ldVxK 3) := by decide
theorem test_decode_ldDtVx : decode 0b1111000000010101#16 = .ok (.ldDtVx 0) := by decide
theorem test_decode_ldStVx : decode 0b1111010000011000#16 = .ok (.ldStVx 4) := by decide
theorem test_decode_addIVx : decode 0b1111001000011110#16 = .ok (.addIVx 2) := by decide
theorem test_decode_ldFVx : decode 0b1111000000101001#16 = .ok (.ldFVx 0) := by decide
theorem test_decode_ldBVx : decode 0b1111010100110011#16 = .ok (.ldBVx 5) := by decide
theorem test_decode_ldMemVx : decode 0b1111001001010101#16 = .ok (.ldMemVx 2) := by decide
theorem test_decode_ldVxMem : decode 0b1111001001100101#16 = .ok (.ldVxMem 2) := by decide

/-- Words of the spec's own examples of illegal encodings (T-F5 to T-F10). -/
theorem test_decode_illegal :
    [0x0000#16, 0x00E1#16, 0x0123#16, 0x5121#16, 0x9AB1#16, 0x8AB8#16, 0x8ABF#16, 0xE19F#16, 0xE1A0#16, 0xF108#16,
      0xF166#16].all (fun w => decide (decode w = .error (.unrecognizedOpcode w))) = true := by decide

theorem test_decode_truncated : decodeBytes [0x60#8] = .error .truncated ∧ decodeBytes [] = .error .truncated := by decide

theorem test_decode_big_endian : decodeBytes [0x6A#8, 0x42#8, 0x99#8] = .ok (.ldImm 10 0x42#8, [0x99#8]) := by decide

theorem test_table_word : decodeTableWord 16 0x8124 = some (.addReg 1 2) := by decide

/-! ### The spec's test vectors, one `Step()` each -/

/-- The value of `f` after the CPU has executed word `w` from `s`. -/
def afterWord {α : Type} (w : Word) (s : State) (f : State → α) : Option α :=
  match cpuStep (s.placeWord w) with
  | .next t => some (f t)
  | .fault _ => none
  | .refused _ => none

/-- Registers 0 and 1 set. -/
def with01 (a b : Byte) : State := (State.reset.setReg 0 a).setReg 1 b

/-- T-F1: `PC` = 0xFFE. -/
theorem test_fetch_top : afterWord 0x6007#16 (State.reset.setPc 0xFFE#16) (fun t => (t.reg 0, t.pc)) =
    some (7#8, 0x1000#16) := by decide
/-- T-F3: `PC` = 0xFFF has no second byte. -/
theorem test_fetch_past_end : cpuStep (State.reset.setPc 0xFFF#16) =
    .next ((State.reset.setPc 0xFFF#16).setRs (.faulted .outOfBoundsMemoryAccess)) := by rfl
/-- T-F4: an odd `PC`. -/
theorem test_fetch_odd : afterWord 0x6105#16 (State.reset.setPc 0x201#16) (fun t => (t.reg 1, t.pc)) =
    some (5#8, 0x203#16) := by decide
/-- T-S12. -/
theorem test_illegal_word : afterWord 0x5121#16 State.reset (fun t => (t.rs, t.pc)) =
    some (.faulted .unrecognizedOpcode, 0x200#16) := by decide
/-- T-F11. -/
theorem test_faulted_again : cpuStep (State.reset.setRs (.faulted .stackUnderflow)) = .fault .stackUnderflow := by rfl
/-- T-F13. -/
theorem test_skip_over_illegal : afterWord 0x3000#16 State.reset (fun t => t.pc) = some 0x204#16 := by decide
/-- T-S11. -/
theorem test_jp : afterWord 0x1250#16 State.reset (fun t => t.pc) = some 0x250#16 := by decide
/-- T-C4. -/
theorem test_call : afterWord 0x2400#16 (State.reset.setSp 15) (fun t => (t.stack[15], t.sp, t.pc)) =
    some (0x200#16, 16, 0x400#16) := by decide
/-- T-C5. -/
theorem test_call_overflow : afterWord 0x2400#16 (State.reset.setSp 16) (fun t => (t.rs, t.sp, t.pc)) =
    some (.faulted .stackOverflow, 16, 0x200#16) := by decide
/-- T-C8. -/
theorem test_ret : afterWord 0x00EE#16 ((State.reset.setStack ((State.reset.stack.set 0 0x300#16).set 1 0x456#16)).setSp 2)
    (fun t => (t.sp, t.pc)) = some (1, 0x458#16) := by decide
/-- T-C6. -/
theorem test_ret_underflow : afterWord 0x00EE#16 State.reset (fun t => (t.rs, t.pc)) =
    some (.faulted .stackUnderflow, 0x200#16) := by decide
/-- T-C10. -/
theorem test_jpV0_past_end : afterWord 0xBF01#16 (with01 0xFF#8 0#8) (fun t => (t.pc, t.rs)) =
    some (0x1000#16, .running) := by decide
/-- T-C11: the register is V0, not V5. -/
theorem test_jpV0_is_v0 : afterWord 0xB500#16 ((with01 1#8 0#8).setReg 5 0x99#8) (fun t => t.pc) = some 0x501#16 := by decide
/-- T-C12, T-C13. -/
theorem test_seImm_sneImm : afterWord 0x3342#16 (State.reset.setReg 3 0x42#8) (fun t => t.pc) = some 0x204#16 ∧
    afterWord 0x4342#16 (State.reset.setReg 3 0x42#8) (fun t => t.pc) = some 0x202#16 := by decide
/-- T-C15, T-C16. -/
theorem test_seReg_sneReg_same : afterWord 0x5440#16 State.reset (fun t => t.pc) = some 0x204#16 ∧
    afterWord 0x9440#16 State.reset (fun t => t.pc) = some 0x202#16 := by decide
/-- T-A3. -/
theorem test_addImm_vF : afterWord 0x7F01#16 (State.reset.setReg 15 0xFF#8) (fun t => t.reg 15) = some 0#8 := by decide
/-- T-A2. -/
theorem test_addImm_no_flag : afterWord 0x7001#16 ((with01 0xFF#8 0#8).setReg 15 0x55#8) (fun t => (t.reg 0, t.reg 15)) =
    some (0#8, 0x55#8) := by decide
/-- T-A4 to T-A7: registers 0 and 1 after each operation. -/
theorem test_ldReg : afterWord 0x8010#16 (with01 0#8 0x33#8) (fun t => t.reg 0) = some 0x33#8 := by decide
theorem test_orReg : afterWord 0x8011#16 ((with01 0xF0#8 0x0F#8).setReg 15 0x55#8) (fun t => (t.reg 0, t.reg 15)) =
    some (0xFF#8, 0x55#8) := by decide
theorem test_andReg : afterWord 0x8012#16 ((with01 0xF0#8 0x3C#8).setReg 15 0x55#8) (fun t => (t.reg 0, t.reg 15)) =
    some (0x30#8, 0x55#8) := by decide
theorem test_xorReg : afterWord 0x8013#16 (with01 0xFF#8 0x0F#8) (fun t => t.reg 0) = some 0xF0#8 := by decide
/-- T-S2. -/
theorem test_addReg_carry : afterWord 0x8014#16 (with01 0xFF#8 0x01#8) (fun t => (t.reg 0, t.reg 15)) =
    some (0#8, 1#8) := by decide
/-- T-A13: the flag overwrites the result. -/
theorem test_addReg_vF : afterWord 0x8F14#16 ((with01 0#8 0xF5#8).setReg 15 0x10#8) (fun t => t.reg 15) = some 1#8 := by decide
/-- T-S5. -/
theorem test_sub_borrow : afterWord 0x8015#16 (with01 3#8 5#8) (fun t => (t.reg 0, t.reg 15)) = some (254#8, 0#8) := by decide
/-- T-A15. -/
theorem test_sub_equal : afterWord 0x8015#16 (with01 5#8 5#8) (fun t => (t.reg 0, t.reg 15)) = some (0#8, 1#8) := by decide
/-- T-A19. -/
theorem test_subn : afterWord 0x8017#16 (with01 3#8 5#8) (fun t => (t.reg 0, t.reg 15)) = some (2#8, 1#8) := by decide
/-- T-A20. -/
theorem test_subn_borrow : afterWord 0x8017#16 (with01 5#8 3#8) (fun t => (t.reg 0, t.reg 15)) = some (0xFE#8, 0#8) := by decide
/-- T-A24: y is ignored. -/
theorem test_shr_ignores_y : afterWord 0x8016#16 (with01 4#8 0xAA#8) (fun t => (t.reg 0, t.reg 1, t.reg 15)) =
    some (2#8, 0xAA#8, 0#8) := by decide
/-- T-A25. -/
theorem test_shr_vF : afterWord 0x8F06#16 (State.reset.setReg 15 3#8) (fun t => t.reg 15) = some 1#8 := by decide
/-- T-S7. -/
theorem test_shl : afterWord 0x800E#16 (with01 0x81#8 0#8) (fun t => (t.reg 0, t.reg 15)) = some (2#8, 1#8) := by decide
/-- T-A30. -/
theorem test_shl_vF : afterWord 0x8F0E#16 (State.reset.setReg 15 0x7F#8) (fun t => t.reg 15) = some 0#8 := by decide
/-- T-A33: the byte drawn, whatever it is. -/
theorem test_rnd_all_bits : afterWord 0xC0FF#16 State.reset (fun t => t.draws) = some 1 := by decide
/-- T-M4: the index wraps modulo 2^16. -/
theorem test_addIVx_wraps : afterWord 0xF01E#16 ((with01 2#8 0#8).setI 0xFFFF#16) (fun t => t.i) = some 1#16 := by decide
/-- T-M3. -/
theorem test_addIVx_past_end : afterWord 0xF01E#16 ((with01 1#8 0#8).setI 0xFFF#16) (fun t => (t.i, t.rs)) =
    some (0x1000#16, .running) := by decide
/-- T-M7, T-M8: no masking. -/
theorem test_ldFVx : afterWord 0xF029#16 (with01 0x10#8 0#8) (fun t => t.i) = some 0x0A0#16 ∧
    afterWord 0xF029#16 (with01 0xFF#8 0#8) (fun t => t.i) = some 0x54B#16 := by decide
/-- T-M13. -/
theorem test_ldBVx_top : afterWord 0xF033#16 ((with01 7#8 0#8).setI 0xFFD#16)
    (fun t => (t.readByte 0xFFD, t.readByte 0xFFF, t.i)) = some (0#8, 7#8, 0xFFD#16) := by decide
/-- T-M14. -/
theorem test_ldBVx_out : afterWord 0xF033#16 ((with01 7#8 0#8).setI 0xFFE#16) (fun t => (t.rs, t.readByte 0xFFE)) =
    some (.faulted .outOfBoundsMemoryAccess, 0#8) := by decide
/-- T-M15. -/
theorem test_ldMemVx : afterWord 0xF055#16 ((with01 0x11#8 0x22#8).setI 0x300#16)
    (fun t => (t.readByte 0x300, t.readByte 0x301, t.i)) = some (0x11#8, 0#8, 0x300#16) := by decide
/-- T-M17. -/
theorem test_ldMemVx_out : afterWord 0xFF55#16 (State.reset.setI 0xFF1#16) (fun t => (t.rs, t.pc)) =
    some (.faulted .outOfBoundsMemoryAccess, 0x200#16) := by decide
/-- T-M21. -/
theorem test_ldVxMem_glyph : afterWord 0xF465#16 (State.reset.setI 0x050#16) (fun t => (t.reg 0, t.reg 1, t.reg 4, t.reg 5)) =
    some (0xF0#8, 0x90#8, 0xF0#8, 0#8) := by decide
/-- T-D2: n = 0 cannot fault and clears `FADE`. -/
theorem test_drw_empty : afterWord 0xD010#16 ((State.reset.setI 0xFFFF#16).setFade (Vector.replicate 32 5#64))
    (fun t => (t.rs, t.reg 15, t.dc, t.fade[0])) = some (.running, 0#8, true, 0#64) := by decide
/-- T-D9: rows past row 31 are dropped. -/
theorem test_drw_bottom : afterWord 0xD015#16 ((with01 0#8 30#8).setI 0x050#16)
    (fun t => (t.fb[30], t.fb[31], t.fb[0])) = some (0xF000000000000000#64, 0x9000000000000000#64, 0#64) := by decide
/-- T-D7, with glyph row 0 of digit 0 for the sprite: columns past 63 are dropped, or come round under `wrapBoth` (I3). -/
theorem test_drw_right : afterWord 0xD011#16 ((with01 62#8 0#8).setI 0x050#16) (fun t => t.fb[0]) = some 3#64 ∧
    afterWord 0xD011#16 (((with01 62#8 0#8).setI 0x050#16).setEdge .wrapBoth) (fun t => t.fb[0]) =
      some 0xC000000000000003#64 := by decide
/-- I3: rows past row 31 come round under `wrapRows`. -/
theorem test_drw_wrapRows : afterWord 0xD012#16 (((with01 0#8 31#8).setI 0x050#16).setEdge .wrapRows)
    (fun t => (t.fb[31], t.fb[0])) = some (0xF000000000000000#64, 0x9000000000000000#64) := by decide
/-- T-D5: a collision. -/
theorem test_drw_collision : afterWord 0xD011#16
    ((State.reset.setFb (State.reset.fb.set 0 0xF000000000000000#64)).setI 0x050#16)
    (fun t => (t.fb[0], t.reg 15, t.fade[0])) = some (0#64, 1#8, 0xF000000000000000#64) := by decide
/-- T-D1. -/
theorem test_cls : afterWord 0x00E0#16 (State.reset.setFade (Vector.replicate 32 1#64))
    (fun t => (t.fb[3], t.dc, t.fade[2])) = some (0#64, true, 1#64) := by decide
/-- T-K1. -/
theorem test_ldVxDt : afterWord 0xF307#16 (State.reset.setDt 0x3C#8) (fun t => t.reg 3) = some 0x3C#8 := by decide
/-- T-K3. -/
theorem test_ldStVx : afterWord 0xF418#16 (State.reset.setReg 4 1#8) (fun t => (t.st, t.isBeeping, t.tick.isBeeping)) =
    some (1#8, true, false) := by decide
/-- T-TIMER. -/
theorem test_timer : afterWord 0xF015#16 (with01 10#8 0#8) (fun t => (t.dt, (t.ticks 10).dt, (t.ticks 11).dt)) =
    some (10#8, 0#8, 0#8) := by decide
/-- T-K8. -/
theorem test_skp_refused : cpuStep ((State.reset.setReg 2 0x10#8).placeWord 0xE29E#16) = .refused .keyIndexOutOfRange := by rfl
/-- T-K6, T-K7: the skip for each answer. -/
theorem test_skp_answers : afterWord 0xE29E#16 (State.reset.setReg 2 7#8) (fun t => t.pc) =
    some (if Config.keyPressed 0 7 then 0x204#16 else 0x202#16) := by rfl
/-- T-K7: SKNP skips on the opposite answer. -/
theorem test_sknp_answers : afterWord 0xE2A1#16 (State.reset.setReg 2 7#8) (fun t => t.pc) =
    some (if !Config.keyPressed 0 7 then 0x204#16 else 0x202#16) := by rfl
/-- T-K9, T-K10. -/
theorem test_ldVxK : afterWord 0xF30A#16 State.reset
    (fun t => (t.rs, t.pc, (t.keyPress 0xB).reg 3, (t.keyPress 0xB).pc, (t.keyPress 0xB).rs)) =
    some (.awaitingKey 3, 0x200#16, 0x0B#8, 0x202#16, .running) := by decide
/-- T-R5: a load and the memory past the ROM. -/
theorem test_loadRom : (State.reset.loadRom [0xA2#8, 0x02#8]).map (fun t => (t.readByte 0x200, t.readByte 0x202, t.pc)) =
    some (0xA2#8, 0#8, 0x200#16) := by decide
/-- T-R4. -/
theorem test_loadRom_oversized : ∀ rom : List Byte, rom.length = 3585 → State.reset.loadRom rom = none := by
  intro rom h
  simp [State.loadRom, Config.maxRom, h]
/-- What the host asks of `withFetchWord`: the very next step runs the instruction. -/
theorem test_withFetchWord : step (State.reset.withFetchWord 16 0x6A42) =
    onNext State.environment (exec (.ldImm 10 0x42#8) (State.reset.withFetchWord 16 0x6A42)) := by rfl

/-! ### Witnesses: the hypotheses of each statement hold together somewhere, its clauses at their boundaries -/

/-- The reset state, waiting for a key for register 3 at an Fx0A. -/
def waitingState : State := (State.reset.placeWord 0xF30A#16).setRs (.awaitingKey 3)

theorem reset_meets_invariant_parts : State.reset.mem.wf ∧ State.reset.edge = .drop ∧ State.reset.rs = .running := by decide

theorem reset_inv_witness : ∃ s : State, s.Inv := ⟨State.reset, ⟨by decide, by decide, by decide, by decide⟩⟩

theorem witness_DecodeOfEncode : Instr.wellFormed (.drw 15 15 15) = true ∧ Instr.wellFormed (.jp 0xFFF#16) = true := by decide
theorem witness_EncodeOfDecode : decode 0xFF65#16 = .ok (.ldVxMem 15) := by decide
theorem witness_FamiliesZeroFiveNine : (0x0FFF#16).toNat < 0x1000 ∧
    (0x5FF0#16 = BitVec.ofNat 16 (0x5000 + 256 * 15 + 16 * 15 + 0)) ∧
    (0x9FFF#16 = BitVec.ofNat 16 (0x9000 + 256 * 15 + 16 * 15 + 15)) := by decide
theorem witness_FamiliesOfOneInstruction : (0xFFF < 4096) ∧ (0 < 4096) ∧ (15 < 16) ∧
    (BitVec.ofNat 16 (0xD000 + 256 * (15 : Reg).val + 16 * (15 : Reg).val + 15) = 0xDFFF#16) := by decide
theorem witness_EncodedAs : Instr.wellFormed (.jp 0xFFF#16) = true ∧ Instr.wellFormed (.ldI 0xFFF#16) = true ∧
    Instr.wellFormed (.call 0#16) = true ∧ Instr.wellFormed (.drw 15 15 15) = true ∧
    Instr.wellFormed (.jp 0x1000#16) = false := by decide
theorem witness_FamiliesEightEF : (0x8FFE#16 = BitVec.ofNat 16 (0x8000 + 256 * 15 + 16 * 15 + 0xE)) ∧
    (0xE0A1#16 = BitVec.ofNat 16 (0xE000 + 256 * 0 + 0xA1)) ∧ (0xFFFF#16 = BitVec.ofNat 16 (0xF000 + 256 * 15 + 0xFF)) := by
  decide
theorem witness_FetchIsBigEndian : (State.reset.setPc 4094#16).pc.toNat ≤ 4094 ∧ 4095 ≤ (State.reset.setPc 4095#16).pc.toNat ∧
    (State.reset.setPc 4095#16).rs = .running := by decide
theorem witness_StepRunsDecodedInstruction :
    (State.reset.placeWord 0xD015#16).rs = .running ∧ (State.reset.placeWord 0xD015#16).pc.toNat ≤ 4094 ∧
    decodeBytes [(State.reset.placeWord 0xD015#16).readByte 0x200, (State.reset.placeWord 0xD015#16).readByte 0x201] =
      .ok (.drw 0 1 5, []) := by decide
theorem witness_StepIsInterleaving : ∃ t, step (State.reset.placeWord 0x6A42#16) = .next t := ⟨_, rfl⟩
theorem witness_FaultedIsTerminal : (State.reset.setRs (.faulted .stackOverflow)).rs = .faulted .stackOverflow := by decide
theorem witness_WaitingStepChangesNothing : waitingState.rs = .awaitingKey 3 := by decide
theorem witness_KeyEventCompletesWait : waitingState.rs = .awaitingKey 3 ∧ ∀ x : Reg, State.reset.rs ≠ .awaitingKey x := by
  decide
theorem witness_RunStateAfterExecute : State.reset.rs = .running ∧ ∃ t, exec .ret State.reset = .next t := ⟨rfl, _, rfl⟩
theorem witness_FaultsArePrecise : State.reset.rs = .running ∧
    ∃ t, cpuStep State.reset = .next t ∧ t.rs = .faulted .unrecognizedOpcode := ⟨rfl, _, rfl, by decide⟩
theorem witness_IllegalWordRaises : State.reset.rs = .running ∧ State.reset.fetch = some 0x0000#16 ∧
    ∀ i : Instr, decode 0x0000#16 ≠ .ok i := by
  refine ⟨rfl, by decide, fun i h => ?_⟩
  rw [show decode 0x0000#16 = .error (.unrecognizedOpcode 0#16) by decide] at h
  cases h
theorem witness_OnlyKeyNumbersAreRefused : 16 ≤ ((State.reset.setReg 0 16#8).reg 0).toNat ∧
    exec (.skp 0) (State.reset.setReg 0 16#8) = .refused .keyIndexOutOfRange := ⟨by decide, rfl⟩
theorem witness_JumpV0Completes : addressFits 0xFFF#16 = true := by decide
theorem witness_CallPushes : (State.reset.setSp 15).sp.val < 16 ∧ (State.reset.setSp 16).sp.val = 16 := by decide
theorem witness_ReturnPops : (State.reset.setSp 1).sp.val ≠ 0 ∧ (State.reset.setSp 1).stack[0]? = some 0#16 ∧
    (State.reset.setSp 16).sp.val ≠ 0 ∧ (State.reset.setSp 16).stack[15]? = some 0#16 := by decide
theorem witness_ReturnOnEmptyStackRaises : State.reset.sp.val = 0 := by decide
theorem witness_CallThenReturn : (State.reset.setSp 15).sp.val < 16 := by decide
theorem witness_AddSetsCarry : (255#8).toNat + (0#8).toNat ≤ 255 ∧ (255#8).toNat + (1#8).toNat > 255 ∧
    ((State.reset.setReg 15 255#8).reg 15).toNat + ((State.reset.setReg 15 255#8).reg 0).toNat = 255 ∧ (14 : Reg) ≠ 15 := by
  decide
theorem witness_SubtractSetsNoBorrow : ((State.reset.setReg 15 1#8).reg 0).toNat < ((State.reset.setReg 15 1#8).reg 15).toNat ∧
    (State.reset.reg 0).toNat ≤ (State.reset.reg 15).toNat ∧ (14 : Reg) ≠ 15 := by decide
theorem witness_ShiftsSetBitOut : (14 : Reg) ≠ 15 := by decide
theorem witness_BcdStoresDigits : State.reset.mem.wf ∧ (State.reset.setI 0xFFD#16).i.toNat + 2 < 4096 := by decide
theorem witness_StoreRegisters : State.reset.mem.wf ∧ (State.reset.setI 0xFF0#16).i.toNat + (15 : Reg).val < 4096 := by decide
theorem witness_LoadRegisters : (State.reset.setI 0xFF0#16).i.toNat + (15 : Reg).val < 4096 := by decide
theorem witness_StoreThenLoadRegisters : State.reset.mem.wf ∧
    (State.reset.setI 0xFF0#16).i.toNat + (15 : Reg).val < 4096 := by decide
theorem witness_OutOfRangeAccessRaises : 4095 ≤ (State.reset.setPc 4095#16).pc.toNat ∧
    4096 ≤ (State.reset.setI 0xFF2#16).i.toNat + (15 - 1) ∧ 4096 ≤ (State.reset.setI 0xFFE#16).i.toNat + 2 ∧
    4096 ≤ (State.reset.setI 0xFF1#16).i.toNat + (15 : Reg).val ∧ (State.reset.setSp 1).sp.val ≠ 0 ∧
    ((State.reset.setReg 0 15#8).reg 0).toNat < 16 := by decide
theorem witness_StoreSeenByFetch : State.reset.mem.wf ∧ (State.reset.setI 0xFFF#16).i.toNat + (0 : Reg).val < 4096 ∧
    (State.reset.setI 0xFF0#16).i.toNat + (15 : Reg).val < 4096 ∧ (State.reset.setI 0xFFD#16).i.toNat + 2 < 4096 ∧
    (0xFFE#16 : Word).toNat ≤ 4094 := by decide
/-- `I` = 0x300 and V0 = 0xFE (254): the fetches at `I - 1`, `I`, `I + 1`, `I + 2` after LD_B_VX find each digit in its place. -/
theorem test_store_fetch : ∃ t, exec (.ldBVx 0) ((State.reset.setI 0x300#16).setReg 0 0xFE#8) = .next t ∧
    (t.setPc 0x2FF#16).fetch = some 0x0002#16 ∧ (t.setPc 0x300#16).fetch = some 0x0205#16 ∧
    (t.setPc 0x301#16).fetch = some 0x0504#16 ∧ (t.setPc 0x302#16).fetch = some 0x0400#16 :=
  ⟨_, rfl, by decide, by decide, by decide, by decide⟩
theorem witness_DrawSetsDisplayChanged : InMemory (State.reset.setI 0xFF1#16).i.toNat 15 ∧ InMemory 0xFFFF 0 ∧
    (∃ t, exec .cls (State.reset.setDc true) = .next t) ∧ (State.reset.setDc true).dc = true :=
  ⟨.inr (by decide), .inl rfl, ⟨_, rfl⟩, rfl⟩
theorem witness_DrawPixels : State.reset.edge = .drop ∧ InMemory (State.reset.setI 0xFF1#16).i.toNat 15 ∧
    ((State.reset.setFb (Vector.replicate 32 0xF000000000000000#64)).pixel 0 0 &&
      spritePixel ((State.reset.setFb (Vector.replicate 32 0xF000000000000000#64)).setI 0x050#16) 0 1 5 0 0) = true :=
  ⟨rfl, .inr (by decide), by decide⟩
theorem witness_DrawPixelsWrapping : (15 < 16) ∧ (State.reset.setEdge .wrapBoth).edge = (if true then .wrapBoth else .wrapRows) ∧
    (State.reset.setEdge .wrapRows).edge = (if false then EdgePolicy.wrapBoth else .wrapRows) ∧ InMemory 0xFF1 15 ∧
    spritePixelWrapped true ((with01 62#8 31#8).setI 0x050#16) 0 1 2 0 31 = true :=
  ⟨by decide, rfl, rfl, .inr (by decide), by decide⟩
theorem witness_SpriteRowPlacesBits : (63 < 64) ∧ (56 ≤ 56) := by decide
theorem witness_DrawTwiceRestores : (0 : Reg) ≠ 15 ∧ (1 : Reg) ≠ 15 ∧ (15 < 16) ∧ InMemory 0xFF1 15 :=
  ⟨by decide, by decide, by decide, .inr (by decide)⟩
/-- The framebuffer holds exactly the sprite: the case in which R221's own inference fails. -/
def fullSprite : State := (State.reset.setFb (State.reset.fb.set 0 0xF000000000000000#64)).setI 0x050#16
theorem witness_SecondDrawAlwaysCollides : fullSprite.edge = .drop ∧ InMemory fullSprite.i.toNat 1 ∧
    (∃ t u, exec (.drw 0 1 1) fullSprite = .next t ∧ exec (.drw 0 1 1) t = .next u) ∧
    spritePixel fullSprite 0 1 1 0 0 = true := ⟨rfl, .inr (by decide), ⟨_, _, rfl, rfl⟩, by decide⟩
theorem witness_KeySkips : ((State.reset.setReg 2 15#8).reg 2).toNat = (15 : Key).val := by decide
theorem witness_OnlyListedWrites : (∃ t, exec (.ldVxMem 15) State.reset = .next t) ∧
    (∃ t, exec (.ldBVx 0) (State.reset.setI 0xFFD#16) = .next t) ∧ storedLength State.reset (.ldBVx 0) = 3 ∧
    (∃ t, exec (.ldMemVx 15) (State.reset.setI 0xFF0#16) = .next t) ∧ storedLength State.reset (.ldMemVx 15) = 16 ∧
    (∃ t, exec (.call 0x300#16) (State.reset.setSp 15) = .next t) ∧ (14 : Nat) ≠ (State.reset.setSp 15).sp.val :=
  ⟨⟨_, rfl⟩, ⟨_, rfl⟩, by decide, ⟨_, rfl⟩, by decide, ⟨_, rfl⟩, by decide⟩
theorem witness_TicksCommuteWithExecute : ∀ x : Reg, Instr.cls ≠ .ldVxDt x ∧ Instr.cls ≠ .ldDtVx x ∧ Instr.cls ≠ .ldStVx x := by
  decide
theorem witness_StepKeepsInvariant : State.reset.Inv ∧ ∃ t, step State.reset = .next t :=
  ⟨⟨by decide, by decide, by decide, by decide⟩, _, rfl⟩
theorem witness_MovesKeepInvariant : State.reset.Inv ∧
    ∃ t, State.reset.moves [.tick, .cpu, .clearDc, .keyPress 3] = .next t :=
  ⟨⟨by decide, by decide, by decide, by decide⟩, _, rfl⟩
theorem witness_LoadedMachineMeetsInvariant :
    ∃ s, (State.construct (Vector.replicate 80 0xAA#8)).loadRom [0x12#8, 0x00#8] = some s := ⟨_, rfl⟩
theorem witness_IdleLoopChangesNothing : (State.reset.placeWord 0x1200#16).idles = true := by decide
theorem witness_ConstructionState : ∃ rom : List Byte, 3584 < rom.length :=
  ⟨List.replicate 3585 0#8, by rw [List.length_replicate]; omega⟩
theorem witness_LoadRomCopies : State.reset.mem.wf ∧ ∃ rom : List Byte, rom.length ≤ 3584 ∧ 3583 < rom.length :=
  ⟨State.reset_mem_wf, List.replicate 3584 0#8, by rw [List.length_replicate], by rw [List.length_replicate]; omega⟩

end Sys2Proof.Tests
end

/-! ### What an execute stage that answers a next state can have been -/

namespace Sys2Proof.Machine

/-- The shape of every checked operation: the error is taken, or the operation completes. -/
theorem elim_raise_cases {α : Type} {o : Option α} {k : Fault} {f : α → State} {s t : State}
    (h : o.elim (raise k s) (fun a => .next (f a)) = .next t) :
    t = s.setRs (.faulted k) ∨ ∃ a, o = some a ∧ t = f a := by
  cases o with
  | none => exact .inl (raise_eq_next.mp h)
  | some a => exact .inr ⟨a, rfl, (Host.Outcome.next.inj h).symm⟩

theorem exec_call (nnn : Word) (s : State) :
    exec (.call nnn) s = (s.push s.pc).elim (raise .stackOverflow s) fun u => .next (u.setPc nnn) := by
  simp only [exec, execCall]
  cases s.push s.pc <;> rfl

theorem exec_ret (s : State) :
    exec .ret s = s.pop.elim (raise .stackUnderflow s) fun p => .next (p.2.setPc (p.1 + 2#16)) := by
  simp only [exec, execRet]
  cases s.pop <;> rfl

/-- What a completed DRW leaves, given the sprite's bytes (R221, R225, R226). -/
def State.drawn (s : State) (x y : Reg) (sprite : List Byte) : State :=
  ((((s.setFb (s.drawSprite x y sprite).fb).setFade (s.drawSprite x y sprite).fade).setReg vF
    (flagByte (s.drawSprite x y sprite).collided)).setDc true).advance

theorem exec_drw (x y : Reg) (n : Nat) (s : State) :
    exec (.drw x y n) s =
      (s.loadBytes s.base n).elim (raise .outOfBoundsMemoryAccess s) fun sprite => .next (s.drawn x y sprite) := by
  simp only [exec, execDrw]
  cases s.loadBytes s.base n <;> rfl

theorem exec_ldBVx (x : Reg) (s : State) :
    exec (.ldBVx x) s = (s.storeBytes s.base (decimalDigits (s.reg x))).elim (raise .outOfBoundsMemoryAccess s)
      fun u => .next u.advance := by
  simp only [exec, execLdBVx]
  cases s.storeBytes s.base (decimalDigits (s.reg x)) <;> rfl

theorem exec_ldMemVx (x : Reg) (s : State) :
    exec (.ldMemVx x) s = (s.storeBytes s.base (s.regsThrough x)).elim (raise .outOfBoundsMemoryAccess s)
      fun u => .next u.advance := by
  simp only [exec, execLdMemVx]
  cases s.storeBytes s.base (s.regsThrough x) <;> rfl

theorem exec_ldVxMem (x : Reg) (s : State) :
    exec (.ldVxMem x) s = (s.loadBytes s.base (x.val + 1)).elim (raise .outOfBoundsMemoryAccess s)
      fun bytes => .next (s.setV (putRegs s.v 0 bytes)).advance := by
  simp only [exec, execLdVxMem]
  cases s.loadBytes s.base (x.val + 1) <;> rfl

theorem exec_call_cases {nnn : Word} {s t : State} (h : exec (.call nnn) s = .next t) :
    t = s.setRs (.faulted .stackOverflow) ∨ ∃ u, s.push s.pc = some u ∧ t = u.setPc nnn :=
  elim_raise_cases ((exec_call nnn s).symm.trans h)

theorem exec_ret_cases {s t : State} (h : exec .ret s = .next t) :
    t = s.setRs (.faulted .stackUnderflow) ∨ ∃ p, s.pop = some p ∧ t = p.2.setPc (p.1 + 2#16) :=
  elim_raise_cases ((exec_ret s).symm.trans h)

theorem exec_drw_cases {x y : Reg} {n : Nat} {s t : State} (h : exec (.drw x y n) s = .next t) :
    t = s.setRs (.faulted .outOfBoundsMemoryAccess) ∨
      ∃ sprite, s.loadBytes s.base n = some sprite ∧ t = s.drawn x y sprite :=
  elim_raise_cases ((exec_drw x y n s).symm.trans h)

theorem exec_ldBVx_cases {x : Reg} {s t : State} (h : exec (.ldBVx x) s = .next t) :
    t = s.setRs (.faulted .outOfBoundsMemoryAccess) ∨
      ∃ u, s.storeBytes s.base (decimalDigits (s.reg x)) = some u ∧ t = u.advance :=
  elim_raise_cases ((exec_ldBVx x s).symm.trans h)

theorem exec_ldMemVx_cases {x : Reg} {s t : State} (h : exec (.ldMemVx x) s = .next t) :
    t = s.setRs (.faulted .outOfBoundsMemoryAccess) ∨
      ∃ u, s.storeBytes s.base (s.regsThrough x) = some u ∧ t = u.advance :=
  elim_raise_cases ((exec_ldMemVx x s).symm.trans h)

theorem exec_ldVxMem_cases {x : Reg} {s t : State} (h : exec (.ldVxMem x) s = .next t) :
    t = s.setRs (.faulted .outOfBoundsMemoryAccess) ∨
      ∃ bytes, s.loadBytes s.base (x.val + 1) = some bytes ∧ t = (s.setV (putRegs s.v 0 bytes)).advance :=
  elim_raise_cases ((exec_ldVxMem x s).symm.trans h)

/-- A key query that is not refused spends one free value and skips or does not. -/
theorem exec_keyQuery_cases {x : Reg} {s t : State}
    (h : exec (.skp x) s = .next t ∨ exec (.sknp x) s = .next t) : ∃ c, t = s.spendDraw.skipIf c := by
  simp only [exec, execSkp, execSknp] at h
  cases hk : keyNumber (s.reg x) with
  | none => simp [hk] at h
  | some k =>
    rw [hk] at h
    rcases h with h | h <;> exact ⟨_, (Host.Outcome.next.inj h).symm⟩

end Sys2Proof.Machine

/-! ### The frame of each writer of the state -/

namespace Sys2Proof.Machine

section
variable {P : List Part} {R : List Reg} {s t : State}

theorem Keeps.refl (P : List Part) (R : List Reg) (s : State) : Keeps P R s s := by
  constructor <;> intros <;> rfl

theorem Keeps.setMem (h : Keeps P R s t) (hp : .memory ∈ P) (m : Memory) : Keeps P R s (t.setMem m) :=
  { h with memory := fun hn => absurd hp hn }

theorem Keeps.setV (h : Keeps P R s t) {v : Vector Byte 16} (hv : ∀ r ∉ R, (t.setV v).reg r = t.reg r) :
    Keeps P R s (t.setV v) :=
  { h with registers := fun r hr => (hv r hr).trans (h.registers r hr) }

theorem Keeps.setReg (h : Keeps P R s t) {x : Reg} (hx : x ∈ R) (b : Byte) : Keeps P R s (t.setReg x b) :=
  h.setV fun r hr => t.reg_setReg_of_ne b fun e : r = x => hr (e ▸ hx)

theorem Keeps.setWithFlag (h : Keeps P R s t) {x : Reg} (hx : x ∈ R) (hF : vF ∈ R) (b : Byte) (c : Bool) :
    Keeps P R s (t.setWithFlag x b c) :=
  (h.setReg hx b).setReg hF _

theorem Keeps.setI (h : Keeps P R s t) (hp : .index ∈ P) (w : Word) : Keeps P R s (t.setI w) :=
  { h with index := fun hn => absurd hp hn }

theorem Keeps.setPc (h : Keeps P R s t) (w : Word) : Keeps P R s (t.setPc w) := { h with }

theorem Keeps.advance (h : Keeps P R s t) : Keeps P R s t.advance := h.setPc _

theorem Keeps.skipIf (h : Keeps P R s t) (c : Bool) : Keeps P R s (t.skipIf c) := h.setPc _

theorem Keeps.setStack (h : Keeps P R s t) (hp : .stackEntries ∈ P) (k : Vector Word 16) :
    Keeps P R s (t.setStack k) :=
  { h with stackEntries := fun hn => absurd hp hn }

theorem Keeps.setSp (h : Keeps P R s t) (hp : .depth ∈ P) (d : Fin 17) : Keeps P R s (t.setSp d) :=
  { h with depth := fun hn => absurd hp hn }

theorem Keeps.setDt (h : Keeps P R s t) (hp : .delay ∈ P) (b : Byte) : Keeps P R s (t.setDt b) :=
  { h with delay := fun hn => absurd hp hn }

theorem Keeps.setSt (h : Keeps P R s t) (hp : .sound ∈ P) (b : Byte) : Keeps P R s (t.setSt b) :=
  { h with sound := fun hn => absurd hp hn }

theorem Keeps.setFb (h : Keeps P R s t) (hp : .frameBuffer ∈ P) (f : Vector Row 32) : Keeps P R s (t.setFb f) :=
  { h with frameBuffer := fun hn => absurd hp hn }

theorem Keeps.setDc (h : Keeps P R s t) (hp : .displayChanged ∈ P) (b : Bool) : Keeps P R s (t.setDc b) :=
  { h with displayChanged := fun hn => absurd hp hn }

theorem Keeps.setFade (h : Keeps P R s t) (hp : .fading ∈ P) (f : Vector Row 32) : Keeps P R s (t.setFade f) :=
  { h with fading := fun hn => absurd hp hn }

theorem Keeps.setRs (h : Keeps P R s t) (hp : .runState ∈ P) (r : RunState) : Keeps P R s (t.setRs r) :=
  { h with runState := fun hn => absurd hp hn }

theorem Keeps.spendDraw (h : Keeps P R s t) (hp : .draws ∈ P) : Keeps P R s t.spendDraw :=
  { h with draws := fun hn => absurd hp hn }

theorem Keeps.of_push {w : Word} {u : State} (hu : s.push w = some u) (hk : .stackEntries ∈ P) (hd : .depth ∈ P) :
    Keeps P R s u := by
  obtain ⟨_, rfl⟩ := State.push_eq_some.mp hu
  exact ((Keeps.refl P R s).setStack hk _).setSp hd _

theorem Keeps.of_pop {p : Word × State} (hu : s.pop = some p) (hd : .depth ∈ P) : Keeps P R s p.2 := by
  obtain ⟨_, _, hp⟩ := State.pop_eq_some.mp hu
  exact hp ▸ (Keeps.refl P R s).setSp hd _

theorem Keeps.of_storeBytes {base : Nat} {bytes : List Byte} {u : State} (hu : s.storeBytes base bytes = some u)
    (hp : .memory ∈ P) : Keeps P R s u := by
  obtain ⟨_, rfl⟩ := State.storeBytes_eq_some.mp hu
  exact (Keeps.refl P R s).setMem hp _

end

/-- Loading `V0` through `V[x]` leaves every register above x alone (R205). -/
theorem reg_setV_putRegs_of_gt {s : State} {x r : Reg} {bytes : List Byte} (hl : bytes.length = x.val + 1)
    (hr : r ∉ writtenRegs (.ldVxMem x)) : (s.setV (putRegs s.v 0 bytes)).reg r = s.reg r := by
  have hlt : x.val < r.val := by simpa [writtenRegs] using hr
  have hnone : bytes[r.val]? = none := List.getElem?_eq_none (by omega)
  rw [reg_setV_putRegs, hnone, Option.getD_none]

/-- The frame of every execute stage: the second column of R33. -/
theorem exec_keeps {i : Instr} {s t : State} (h : exec i s = .next t) :
    Keeps (writtenParts i) (writtenRegs i) s t := by
  have hs : Keeps (writtenParts i) (writtenRegs i) s s := Keeps.refl _ _ s
  cases i with
  | jp nnn | jpV0 nnn =>
    obtain rfl := Host.Outcome.next.inj h
    exact hs.setPc _
  | seImm x kk | sneImm x kk | seReg x y | sneReg x y =>
    obtain rfl := Host.Outcome.next.inj h
    exact hs.skipIf _
  | ldImm x kk | addImm x kk | ldReg x y | orReg x y | andReg x y | xorReg x y | ldVxDt x =>
    obtain rfl := Host.Outcome.next.inj h
    exact (hs.setReg (List.mem_singleton_self x) _).advance
  | addReg x y | sub x y | shr x y | subn x y | shl x y =>
    obtain rfl := Host.Outcome.next.inj h
    exact (hs.setWithFlag List.mem_cons_self (by simp [writtenRegs]) _ _).advance
  | rnd x kk =>
    obtain rfl := Host.Outcome.next.inj h
    exact ((hs.setReg (List.mem_singleton_self x) _).spendDraw (List.mem_singleton_self _)).advance
  | ldI nnn | addIVx x | ldFVx x =>
    obtain rfl := Host.Outcome.next.inj h
    exact (hs.setI (List.mem_singleton_self _) _).advance
  | ldDtVx x =>
    obtain rfl := Host.Outcome.next.inj h
    exact (hs.setDt (List.mem_singleton_self _) _).advance
  | ldStVx x =>
    obtain rfl := Host.Outcome.next.inj h
    exact (hs.setSt (List.mem_singleton_self _) _).advance
  | ldVxK x =>
    obtain rfl := Host.Outcome.next.inj h
    exact hs.setRs (List.mem_singleton_self _) _
  | cls =>
    obtain rfl := Host.Outcome.next.inj h
    exact ((hs.setFb (by simp [writtenParts]) _).setDc (by simp [writtenParts]) _).advance
  | skp x =>
    obtain ⟨c, rfl⟩ := exec_keyQuery_cases (.inl h)
    exact (hs.spendDraw (List.mem_singleton_self _)).skipIf c
  | sknp x =>
    obtain ⟨c, rfl⟩ := exec_keyQuery_cases (.inr h)
    exact (hs.spendDraw (List.mem_singleton_self _)).skipIf c
  | call nnn =>
    obtain rfl | ⟨u, hu, rfl⟩ := exec_call_cases h
    · exact hs.setRs (by simp [writtenParts]) _
    · exact (Keeps.of_push hu (by simp [writtenParts]) (by simp [writtenParts])).setPc _
  | ret =>
    obtain rfl | ⟨p, hp, rfl⟩ := exec_ret_cases h
    · exact hs.setRs (by simp [writtenParts]) _
    · exact (Keeps.of_pop hp (by simp [writtenParts])).setPc _
  | drw x y n =>
    obtain rfl | ⟨sprite, _, rfl⟩ := exec_drw_cases h
    · exact hs.setRs (by simp [writtenParts]) _
    · exact ((((hs.setFb (by simp [writtenParts]) _).setFade (by simp [writtenParts]) _).setReg
        (List.mem_singleton_self _) _).setDc (by simp [writtenParts]) _).advance
  | ldBVx x =>
    obtain rfl | ⟨u, hu, rfl⟩ := exec_ldBVx_cases h
    · exact hs.setRs (by simp [writtenParts]) _
    · exact (Keeps.of_storeBytes hu (by simp [writtenParts])).advance
  | ldMemVx x =>
    obtain rfl | ⟨u, hu, rfl⟩ := exec_ldMemVx_cases h
    · exact hs.setRs (by simp [writtenParts]) _
    · exact (Keeps.of_storeBytes hu (by simp [writtenParts])).advance
  | ldVxMem x =>
    obtain rfl | ⟨bytes, hb, rfl⟩ := exec_ldVxMem_cases h
    · exact hs.setRs (by simp [writtenParts]) _
    · exact (hs.setV fun r hr => reg_setV_putRegs_of_gt (State.length_of_loadBytes hb) hr).advance

end Sys2Proof.Machine

/-! ### Memory, the stack and the run state after an execute stage -/

namespace Sys2Proof.Machine

/-- Memory after an execute stage: as before, or after one of the two stores (R203, R204). -/
theorem exec_mem_cases {i : Instr} {s t : State} (h : exec i s = .next t) :
    t.mem = s.mem ∨
      ∃ bytes u, bytes.length = storedLength s i ∧ s.storeBytes s.base bytes = some u ∧ t = u.advance := by
  cases i with
  | ldBVx x =>
    obtain rfl | ⟨u, hu, rfl⟩ := exec_ldBVx_cases h
    · exact .inl rfl
    · exact .inr ⟨_, u, rfl, hu, rfl⟩
  | ldMemVx x =>
    obtain rfl | ⟨u, hu, rfl⟩ := exec_ldMemVx_cases h
    · exact .inl rfl
    · exact .inr ⟨_, u, rfl, hu, rfl⟩
  | call nnn =>
    obtain rfl | ⟨u, hu, rfl⟩ := exec_call_cases h
    · exact .inl rfl
    · obtain ⟨_, rfl⟩ := State.push_eq_some.mp hu
      exact .inl rfl
  | ret =>
    obtain rfl | ⟨⟨w, u⟩, hp, rfl⟩ := exec_ret_cases h
    · exact .inl rfl
    · obtain ⟨_, rfl, rfl⟩ := State.pop_eq_some.mp hp
      exact .inl rfl
  | drw x y n =>
    obtain rfl | ⟨_, _, rfl⟩ := exec_drw_cases h <;> exact .inl rfl
  | ldVxMem x =>
    obtain rfl | ⟨_, _, rfl⟩ := exec_ldVxMem_cases h <;> exact .inl rfl
  | skp x =>
    obtain ⟨_, rfl⟩ := exec_keyQuery_cases (.inl h)
    exact .inl rfl
  | sknp x =>
    obtain ⟨_, rfl⟩ := exec_keyQuery_cases (.inr h)
    exact .inl rfl
  | _ =>
    obtain rfl := Host.Outcome.next.inj h
    exact .inl rfl

/-- The stack after an execute stage: its entries as before and no deeper, or after the push of a CALL (R151, R152). -/
theorem exec_stack_cases {i : Instr} {s t : State} (h : exec i s = .next t) :
    (t.stack = s.stack ∧ t.sp ≤ s.sp) ∨ ∃ nnn u, s.push s.pc = some u ∧ t = u.setPc nnn := by
  have hk := exec_keeps h
  cases i with
  | call nnn =>
    obtain rfl | ⟨u, hu, rfl⟩ := exec_call_cases h
    · exact .inl ⟨rfl, le_rfl⟩
    · exact .inr ⟨nnn, u, hu, rfl⟩
  | ret =>
    obtain rfl | ⟨⟨w, u⟩, hp, rfl⟩ := exec_ret_cases h
    · exact .inl ⟨rfl, le_rfl⟩
    · obtain ⟨_, rfl, rfl⟩ := State.pop_eq_some.mp hp
      exact .inl ⟨rfl, Nat.sub_le s.sp.val 1⟩
  | _ => exact .inl ⟨hk.stackEntries (by simp [writtenParts]), (hk.depth (by simp [writtenParts])).le⟩

/-- The run state after an execute stage: as before, a wait entered by LD_VX_K, or an error, which writes nothing else
(R139, R245). -/
theorem exec_rs_cases {i : Instr} {s t : State} (h : exec i s = .next t) :
    t.rs = s.rs ∨ (∃ x, i = .ldVxK x ∧ t = s.setRs (.awaitingKey x)) ∨ ∃ k, t = s.setRs (.faulted k) := by
  have hk := exec_keeps h
  cases i with
  | ldVxK x => exact .inr (.inl ⟨x, rfl, (Host.Outcome.next.inj h).symm⟩)
  | call nnn =>
    obtain rfl | ⟨u, hu, rfl⟩ := exec_call_cases h
    · exact .inr (.inr ⟨_, rfl⟩)
    · obtain ⟨_, rfl⟩ := State.push_eq_some.mp hu
      exact .inl rfl
  | ret =>
    obtain rfl | ⟨⟨w, u⟩, hp, rfl⟩ := exec_ret_cases h
    · exact .inr (.inr ⟨_, rfl⟩)
    · obtain ⟨_, rfl, rfl⟩ := State.pop_eq_some.mp hp
      exact .inl rfl
  | drw x y n =>
    obtain rfl | ⟨_, _, rfl⟩ := exec_drw_cases h
    · exact .inr (.inr ⟨_, rfl⟩)
    · exact .inl rfl
  | ldBVx x =>
    obtain rfl | ⟨u, hu, rfl⟩ := exec_ldBVx_cases h
    · exact .inr (.inr ⟨_, rfl⟩)
    · obtain ⟨_, rfl⟩ := State.storeBytes_eq_some.mp hu
      exact .inl rfl
  | ldMemVx x =>
    obtain rfl | ⟨u, hu, rfl⟩ := exec_ldMemVx_cases h
    · exact .inr (.inr ⟨_, rfl⟩)
    · obtain ⟨_, rfl⟩ := State.storeBytes_eq_some.mp hu
      exact .inl rfl
  | ldVxMem x =>
    obtain rfl | ⟨_, _, rfl⟩ := exec_ldVxMem_cases h
    · exact .inr (.inr ⟨_, rfl⟩)
    · exact .inl rfl
  | _ => exact .inl (hk.runState (by simp [writtenParts]))

/-- Of memory only the bytes the instruction stores from `I` up are written (R206). -/
theorem exec_readByte_outside {i : Instr} {s t : State} (h : exec i s = .next t) {a : Nat}
    (ha : a < s.base ∨ s.base + storedLength s i ≤ a) : t.readByte a = s.readByte a := by
  obtain hm | ⟨bytes, u, hl, hu, rfl⟩ := exec_mem_cases h
  · exact congrArg (Memory.get · a) hm
  · exact State.readByte_of_storeBytes_outside hu (hl ▸ ha)

/-- Of the stack entries only the one at `SP` is written. -/
theorem exec_stack_outside {i : Instr} {s t : State} (h : exec i s = .next t) {k : Nat} (hk : k ≠ s.sp.val) :
    t.stack[k]? = s.stack[k]? := by
  obtain ⟨hst, _⟩ | ⟨nnn, u, hu, rfl⟩ := exec_stack_cases h
  · rw [hst]
  · obtain ⟨hd, rfl⟩ := State.push_eq_some.mp hu
    exact Vector.getElem?_set_ne hd hk.symm

/-- Settles O51: the frame of every execute stage, and what it leaves of memory, the stack and the run state. -/
theorem onlyListedWrites : Obligations.OnlyListedWrites := by
  intro i s t h
  refine ⟨exec_keeps h, fun _ ha => exec_readByte_outside h ha, fun _ hk => exec_stack_outside h hk, ?_⟩
  obtain hr | ⟨x, hi, rfl⟩ | hf := exec_rs_cases h
  · exact .inl hr
  · exact .inr (.inl ⟨x, hi, rfl⟩)
  · exact .inr (.inr hf)

end Sys2Proof.Machine

/-! ### What the decoder answers is well formed -/

namespace Sys2Proof

theorem mem_of_decodeIn {rows : List OpcodeRow} {w : Word} {i : Instr} (h : decodeIn rows w = some i) :
    ∃ r ∈ rows, i = r.build w := by
  induction rows with
  | nil => cases h
  | cons r rest ih =>
    unfold decodeIn at h
    split at h
    · exact ⟨r, List.mem_cons_self, (Option.some.inj h).symm⟩
    · obtain ⟨r', hr', hi⟩ := ih h
      exact ⟨r', List.mem_cons_of_mem _ hr', hi⟩

theorem addressFits_fieldNnn (w : Word) : addressFits (fieldNnn w) = true := by
  simp only [addressFits, fieldNnn, BitVec.toNat_ofNat, decide_eq_true_eq]
  omega

theorem heightFits_fieldN (w : Word) : heightFits (fieldN w) = true :=
  decide_eq_true (Nat.mod_lt _ (by decide))

/-- Every row of the opcode map builds a well-formed instruction from any word (R101, R104). -/
theorem wellFormed_build (w : Word) : ∀ r ∈ opcodeMap, (r.build w).wellFormed = true := by
  simp [opcodeMap, rowsLow, rowsEight, rowsHigh, rowsF, Instr.wellFormed, addressFits_fieldNnn,
    heightFits_fieldN]

theorem wellFormed_of_decode {w : Word} {i : Instr} (h : decode w = .ok i) : i.wellFormed = true := by
  unfold decode at h
  split at h
  · rename_i j hj
    obtain ⟨r, hr, hb⟩ := mem_of_decodeIn hj
    rw [← Except.ok.inj h, hb]
    exact wellFormed_build w r hr
  · cases h

end Sys2Proof

/-! ### The moves of `PC` (R137) and their bound (R38) -/

namespace Sys2Proof.Machine

/-- The values `PC` can have after the execute stage of i (R137, R150 to R153); it stays at an error and at a key wait. -/
inductive PcMove (i : Instr) (s : State) : Word → Prop
  | stays : PcMove i s s.pc
  | advances : PcMove i s (s.pc + 2#16)
  | skips : PcMove i s (s.pc + 4#16)
  | jumps {nnn : Word} (hi : i = .jp nnn ∨ i = .call nnn) : PcMove i s nnn
  | jumpsByV0 {nnn : Word} (hi : i = .jpV0 nnn) : PcMove i s (registerTarget (s.reg 0) nnn)
  | returns {w : Word} {u : State} (hp : s.pop = some (w, u)) : PcMove i s (w + 2#16)

theorem PcMove.skipIf {i : Instr} {s : State} : (c : Bool) → PcMove i s (s.skipIf c).pc
  | true => .skips
  | false => .advances

theorem exec_pcMove {i : Instr} {s t : State} (h : exec i s = .next t) : PcMove i s t.pc := by
  cases i with
  | jp nnn =>
    obtain rfl := Host.Outcome.next.inj h
    exact .jumps (.inl rfl)
  | jpV0 nnn =>
    obtain rfl := Host.Outcome.next.inj h
    exact .jumpsByV0 rfl
  | seImm x kk | sneImm x kk | seReg x y | sneReg x y =>
    obtain rfl := Host.Outcome.next.inj h
    exact .skipIf _
  | skp x =>
    obtain ⟨c, rfl⟩ := exec_keyQuery_cases (.inl h)
    exact .skipIf (s := s) c
  | sknp x =>
    obtain ⟨c, rfl⟩ := exec_keyQuery_cases (.inr h)
    exact .skipIf (s := s) c
  | ldVxK x =>
    obtain rfl := Host.Outcome.next.inj h
    exact .stays
  | call nnn =>
    obtain rfl | ⟨u, _, rfl⟩ := exec_call_cases h
    · exact .stays
    · exact .jumps (.inr rfl)
  | ret =>
    obtain rfl | ⟨⟨w, u⟩, hp, rfl⟩ := exec_ret_cases h
    · exact .stays
    · exact .returns hp
  | drw x y n =>
    obtain rfl | ⟨_, _, rfl⟩ := exec_drw_cases h
    · exact .stays
    · exact .advances
  | ldBVx x =>
    obtain rfl | ⟨u, hu, rfl⟩ := exec_ldBVx_cases h
    · exact .stays
    · obtain ⟨_, rfl⟩ := State.storeBytes_eq_some.mp hu
      exact .advances
  | ldMemVx x =>
    obtain rfl | ⟨u, hu, rfl⟩ := exec_ldMemVx_cases h
    · exact .stays
    · obtain ⟨_, rfl⟩ := State.storeBytes_eq_some.mp hu
      exact .advances
  | ldVxMem x =>
    obtain rfl | ⟨_, _, rfl⟩ := exec_ldVxMem_cases h
    · exact .stays
    · exact .advances
  | _ =>
    obtain rfl := Host.Outcome.next.inj h
    exact .advances

/-- From an instruction that was fetched and decoded, `PC` goes to 0x10FE at most, the farthest target of JP_V0 (R38). -/
theorem PcMove.bound {i : Instr} {s : State} {w : Word} (h : PcMove i s w) (hi : i.wellFormed = true)
    (hpc : s.pc.toNat ≤ 4094) (hst : s.stackAddressesFetched) : w.toNat ≤ 0x10FE := by
  cases h with
  | stays => omega
  | advances | skips => bv_omega
  | jumps hj =>
    have hn : w.toNat < 0x1000 := by rcases hj with rfl | rfl <;> exact of_decide_eq_true hi
    omega
  | @jumpsByV0 nnn hj =>
    subst hj
    have hn : nnn.toNat < 0x1000 := of_decide_eq_true hi
    simp only [registerTarget, BitVec.toNat_ofNat]
    omega
  | returns hp =>
    obtain ⟨hd, rfl, _⟩ := State.pop_eq_some.mp hp
    have he := hst ⟨s.sp.val - 1, by omega⟩ (by simp only; omega)
    bv_omega

/-! ### The invariant -/

/-- The invariant speaks of memory, `PC`, the stack and the run state only. -/
theorem State.Inv.congr {s t : State} (h : s.Inv) (hm : t.mem = s.mem) (hp : t.pc = s.pc) (hk : t.stack = s.stack)
    (hd : t.sp = s.sp) (hr : t.rs = s.rs) : t.Inv where
  memory := hm ▸ h.memory
  pcBound := hp ▸ h.pcBound
  stackAddresses := by
    unfold State.stackAddressesFetched
    rw [hk, hd]
    exact h.stackAddresses
  waiting := by
    unfold State.waitingAtInstruction
    rw [hr, State.fetch_congr hp hm]
    exact h.waiting

theorem State.Inv.setRs_faulted {s : State} (h : s.Inv) (k : Fault) : (s.setRs (.faulted k)).Inv where
  memory := h.memory
  pcBound := h.pcBound
  stackAddresses := h.stackAddresses
  waiting := fun _ hx => by cases hx

theorem State.Inv.tick {s : State} (h : s.Inv) : s.tick.Inv := h.congr rfl rfl rfl rfl rfl

theorem State.Inv.clearDc {s : State} (h : s.Inv) : s.clearDc.Inv := h.congr rfl rfl rfl rfl rfl

theorem State.Inv.environment {s : State} (h : s.Inv) : s.environment.Inv := h.congr rfl rfl rfl rfl rfl

/-- While a key is awaited `PC` stands at a fetched instruction, so it can still advance by 2. -/
theorem State.Inv.keyPress {s : State} (h : s.Inv) (k : Key) : (s.keyPress k).Inv := by
  cases hr : s.rs with
  | running | faulted => simpa [State.keyPress, hr] using h
  | awaitingKey x =>
    obtain ⟨w, hf, _⟩ := Option.map_eq_some_iff.mp (h.waiting x hr)
    have hpc := (State.fetch_eq_some.mp hf).1
    rw [State.keyPress_of_awaiting hr]
    exact {
      memory := h.memory
      pcBound := PcMove.bound (i := .cls) .advances rfl hpc h.stackAddresses
      stackAddresses := h.stackAddresses
      waiting := fun _ hx => by cases hx }

theorem exec_mem_wf {i : Instr} {s t : State} (hm : s.mem.wf) (h : exec i s = .next t) : t.mem.wf := by
  obtain he | ⟨_, u, _, hu, rfl⟩ := exec_mem_cases h
  · exact he ▸ hm
  · have hw : u.mem.wf := State.wf_of_storeBytes hm hu
    exact hw

/-- The address a fetched CALL pushes is its own (R39, R151). -/
theorem stackAddressesFetched_push {s u : State} (hst : s.stackAddressesFetched) (hpc : s.pc.toNat ≤ 4094)
    (hu : s.push s.pc = some u) : u.stackAddressesFetched := by
  obtain ⟨hd, rfl⟩ := State.push_eq_some.mp hu
  intro k hk
  simp only [State.setSp_stack, State.setStack_stack, State.setSp_sp] at hk ⊢
  rw [Vector.getElem_set]
  split
  · exact hpc
  · exact hst k (by omega)

theorem exec_stackAddressesFetched {i : Instr} {s t : State} (hst : s.stackAddressesFetched)
    (hpc : s.pc.toNat ≤ 4094) (h : exec i s = .next t) : t.stackAddressesFetched := by
  obtain ⟨hk, hd⟩ | ⟨nnn, u, hu, rfl⟩ := exec_stack_cases h
  · intro k hlt
    rw [hk]
    exact hst k (Nat.lt_of_lt_of_le hlt hd)
  · have hp : u.stackAddressesFetched := stackAddressesFetched_push hst hpc hu
    exact hp

/-- Only LD_VX_K enters a wait, with `PC` and memory as they were when it was fetched (R245). -/
theorem exec_waitingAtInstruction {i : Instr} {s t : State} {w : Word} (hr : s.rs = .running)
    (hf : s.fetch = some w) (hd : decode w = .ok i) (h : exec i s = .next t) : t.waitingAtInstruction := by
  intro x hx
  obtain he | ⟨y, rfl, rfl⟩ | ⟨k, rfl⟩ := exec_rs_cases h
  · rw [he, hr] at hx
    cases hx
  · obtain rfl : y = x := RunState.awaitingKey.inj hx
    have hk : (s.setRs (.awaitingKey y)).fetch = s.fetch := State.fetch_congr rfl rfl
    rw [hk, hf, Option.map_some, hd]
  · cases hx

/-- The execute stage of a fetched and decoded instruction keeps the invariant. -/
theorem State.Inv.exec {i : Instr} {s t : State} {w : Word} (hs : s.Inv) (hr : s.rs = .running)
    (hf : s.fetch = some w) (hd : decode w = .ok i) (h : exec i s = .next t) : t.Inv :=
  have hpc : s.pc.toNat ≤ 4094 := (State.fetch_eq_some.mp hf).1
  { memory := exec_mem_wf hs.memory h
    pcBound := (exec_pcMove h).bound (wellFormed_of_decode hd) hpc hs.stackAddresses
    stackAddresses := exec_stackAddressesFetched hs.stackAddresses hpc h
    waiting := exec_waitingAtInstruction hr hf hd h }

theorem State.Inv.cpuStep {s t : State} (hs : s.Inv) (h : cpuStep s = .next t) : t.Inv := by
  obtain ⟨_, _, rfl⟩ | ⟨_, _, rfl⟩ | ⟨_, _, _, _, _, rfl⟩ | ⟨hr, w, i, hf, hd, he⟩ := cpuStep_cases h
  · exact hs
  · exact hs.setRs_faulted _
  · exact hs.setRs_faulted _
  · exact hs.exec hr hf hd he

theorem State.Inv.cpuTurn {s t : State} (hs : s.Inv) (h : cpuTurn s = .next t) : t.Inv := by
  obtain ⟨_, k, _, _, rfl⟩ | hc := cpuTurn_cases h
  · exact hs.keyPress k
  · exact hs.cpuStep hc

/-- Settles O53: the CPU's transition keeps the invariant, and so do the ticks and the clear of `DC` after it. -/
theorem stepKeepsInvariant : Obligations.StepKeepsInvariant := by
  intro s t hs h
  obtain ⟨u, hu, rfl⟩ := step_eq_next.mp h
  exact (hs.cpuTurn hu).environment

/-- Each agent's transition keeps the invariant (R130). -/
theorem State.Inv.move {m : Move} {s t : State} (hs : s.Inv) (h : s.move m = .next t) : t.Inv := by
  cases m with
  | cpu => exact hs.cpuStep h
  | tick => exact Host.Outcome.next.inj h ▸ hs.tick
  | keyPress k => exact Host.Outcome.next.inj h ▸ hs.keyPress k
  | clearDc => exact Host.Outcome.next.inj h ▸ hs.clearDc

/-- An interleaving that answers a next state begins with a transition that does. -/
theorem moves_cons_eq_next {m : Move} {ms : List Move} {s t : State} (h : s.moves (m :: ms) = .next t) :
    ∃ u, s.move m = .next u ∧ u.moves ms = .next t := by
  unfold State.moves at h
  split at h
  · rename_i u hu
    exact ⟨u, hu, h⟩
  · cases h
  · cases h

/-- Settles O54, by induction on the interleaving. -/
theorem movesKeepInvariant : Obligations.MovesKeepInvariant := by
  intro ms
  induction ms with
  | nil => exact fun s t hs h => Host.Outcome.next.inj h ▸ hs
  | cons m ms ih =>
    intro s t hs h
    obtain ⟨u, hu, hrest⟩ := moves_cons_eq_next h
    exact ih u t (hs.move hu) hrest

end Sys2Proof.Machine

/-! ### `FADE` has no effect on machine semantics (R46, R226) -/

namespace Sys2Proof.Machine

section
variable (s : State) (f g : Vector Row 32)

theorem base_setFade : (s.setFade f).base = s.base := rfl

theorem regsThrough_setFade (x : Reg) : (s.setFade f).regsThrough x = s.regsThrough x := rfl

theorem loadBytes_setFade (base n : Nat) : (s.setFade f).loadBytes base n = s.loadBytes base n := rfl

theorem storeBytes_setFade (base : Nat) (bytes : List Byte) :
    (s.setFade f).storeBytes base bytes = (s.storeBytes base bytes).map (·.setFade f) := by
  unfold State.storeBytes
  split <;> rfl

theorem push_setFade (w : Word) : (s.setFade f).push w = (s.push w).map (·.setFade f) := by
  cases h : s.push w with
  | none => exact State.push_eq_none.mpr (State.push_eq_none.mp h :)
  | some u =>
    obtain ⟨hd, rfl⟩ := State.push_eq_some.mp h
    exact State.push_eq_some.mpr ⟨hd, rfl⟩

theorem pop_setFade : (s.setFade f).pop = s.pop.map fun p => (p.1, p.2.setFade f) := by
  cases h : s.pop with
  | none => exact State.pop_eq_none.mpr (State.pop_eq_none.mp h :)
  | some p =>
    obtain ⟨hd, hw, hu⟩ := State.pop_eq_some.mp h
    exact State.pop_eq_some.mpr ⟨hd, hw, congrArg (·.setFade f) hu⟩

/-- A draw clears the overlay before it writes it, so the old one shows nowhere (R226). -/
theorem drawn_setFade (x y : Reg) (sprite : List Byte) : (s.setFade f).drawn x y sprite = s.drawn x y sprite := rfl

/-- The execute stage answers alike, up to `FADE`, whatever `FADE` holds. -/
theorem exec_setFade (i : Instr) :
    onNext (·.setFade g) (exec i (s.setFade f)) = onNext (·.setFade g) (exec i s) := by
  cases i with
  | call nnn =>
    simp only [exec_call, State.setFade_pc, push_setFade]
    cases s.push s.pc <;> rfl
  | ret =>
    simp only [exec_ret, pop_setFade]
    cases s.pop <;> rfl
  | drw x y n =>
    simp only [exec_drw, base_setFade, loadBytes_setFade, drawn_setFade]
    cases s.loadBytes s.base n <;> rfl
  | ldBVx x =>
    simp only [exec_ldBVx, base_setFade, State.setFade_reg, storeBytes_setFade]
    cases s.storeBytes s.base (decimalDigits (s.reg x)) <;> rfl
  | ldMemVx x =>
    simp only [exec_ldMemVx, base_setFade, regsThrough_setFade, storeBytes_setFade]
    cases s.storeBytes s.base (s.regsThrough x) <;> rfl
  | ldVxMem x =>
    simp only [exec_ldVxMem, base_setFade, loadBytes_setFade]
    cases s.loadBytes s.base (x.val + 1) <;> rfl
  | skp x =>
    simp only [exec, execSkp, State.setFade_reg]
    cases keyNumber (s.reg x) <;> rfl
  | sknp x =>
    simp only [exec, execSknp, State.setFade_reg]
    cases keyNumber (s.reg x) <;> rfl
  | _ => rfl

theorem runWord_setFade (w : Word) :
    onNext (·.setFade g) (runWord w (s.setFade f)) = onNext (·.setFade g) (runWord w s) := by
  unfold runWord
  cases decode w with
  | error e => rfl
  | ok i => exact exec_setFade s f g i

theorem cpuStep_setFade :
    onNext (·.setFade g) (cpuStep (s.setFade f)) = onNext (·.setFade g) (cpuStep s) := by
  have hf : (s.setFade f).fetch = s.fetch := State.fetch_congr rfl rfl
  simp only [cpuStep, State.setFade_rs, hf]
  cases s.rs with
  | faulted k => rfl
  | awaitingKey x => rfl
  | running =>
    cases s.fetch with
    | none => rfl
    | some w => exact runWord_setFade s f g w

theorem keyPress_setFade (k : Key) : (s.setFade f).keyPress k = (s.keyPress k).setFade f := by
  simp only [State.keyPress, State.setFade_rs]
  cases s.rs <;> rfl

theorem cpuTurn_setFade :
    onNext (·.setFade g) (cpuTurn (s.setFade f)) = onNext (·.setFade g) (cpuTurn s) := by
  have hc := cpuStep_setFade s f g
  simp only [cpuTurn, State.setFade_rs, State.setFade_draws, keyPress_setFade]
  cases s.rs with
  | faulted k => exact hc
  | running => exact hc
  | awaitingKey x =>
    cases Config.keyEvent s.draws with
    | none => exact hc
    | some k => rfl

end

/-- The environment's moves after a CPU transition neither read nor write `FADE`. -/
theorem onNext_setFade_environment (g : Vector Row 32) (a : Answer) :
    onNext (·.setFade g) (onNext State.environment a) = onNext State.environment (onNext (·.setFade g) a) := by
  cases a <;> rfl

/-- Settles O46: the CPU's transition answers alike up to `FADE`, and the environment's moves do not touch it. -/
theorem fadeHasNoEffect : Obligations.FadeHasNoEffect := by
  intro s f g
  simp only [step, onNext_setFade_environment, cpuTurn_setFade]

end Sys2Proof.Machine

/-! ### A fetch reads two bytes, the high byte first (R77) -/

namespace Sys2Proof.Machine

theorem toNat_bytesToWord (hi lo : Byte) : (bytesToWord hi lo).toNat = hi.toNat * 256 + lo.toNat := by
  simp only [bytesToWord, BitVec.toNat_ofNat]
  omega

/-- A fetch inside memory, by the values of the two bytes it reads. -/
theorem State.exists_fetch {s : State} (h : s.pc.toNat ≤ 4094) :
    ∃ w, s.fetch = some w ∧
      w.toNat = (s.readByte s.pc.toNat).toNat * 256 + (s.readByte (s.pc.toNat + 1)).toNat :=
  ⟨_, State.fetch_eq_some.mpr ⟨h, rfl⟩, toNat_bytesToWord _ _⟩

/-- A fetch outside memory ends the step with the error and no other write (R134, R139). -/
theorem cpuStep_of_fetch_eq_none {s : State} (hr : s.rs = .running) (hf : s.fetch = none) :
    cpuStep s = .next (s.setRs (.faulted .outOfBoundsMemoryAccess)) := by
  simp only [cpuStep, hr, hf, raise]

/-- Settles O7: the word of the two bytes up to 4094, the error from 4095 on. -/
theorem fetchIsBigEndian : Obligations.FetchIsBigEndian := by
  intro s
  refine ⟨State.exists_fetch, fun h => ?_⟩
  have hf : s.fetch = none := State.fetch_eq_none.mpr h
  exact ⟨hf, fun hr => cpuStep_of_fetch_eq_none hr hf⟩

end Sys2Proof.Machine

/-! ### A store is seen by the next fetch (R88, R297) -/

namespace Sys2Proof.Machine

theorem toNat_getElem_regsThrough (s : State) (x : Reg) (k : Nat) (hk : k < (s.regsThrough x).length) :
    (s.regsThrough x)[k].toNat = (s.v[k]?.getD 0).toNat := by
  have hlt : k < 16 := by rw [length_regsThrough] at hk; omega
  simp [State.regsThrough, hlt]

theorem length_decimalDigits (b : Byte) : (decimalDigits b).length = 3 := rfl

/-- Digit k from the left of the three decimal digits (R203; log 20). -/
theorem toNat_getElem_decimalDigits (b : Byte) (k : Nat) (hk : k < (decimalDigits b).length) :
    (decimalDigits b)[k].toNat = b.toNat / 10 ^ (2 - k) % 10 := by
  have hb : b.toNat < 256 := b.isLt
  match k, hk with
  | 0, _ | 1, _ | 2, _ =>
    simp only [decimalDigits, List.getElem_cons_zero, List.getElem_cons_succ, BitVec.toNat_ofNat]
    omega

theorem State.exists_storeBytes {s : State} {base : Nat} {bytes : List Byte}
    (h : base + bytes.length ≤ Config.memSize) : ∃ u, s.storeBytes base bytes = some u :=
  ⟨_, State.storeBytes_eq_some.mpr ⟨.inr h, rfl⟩⟩

theorem exec_ldMemVx_of_inMemory {x : Reg} {s : State} (h : s.i.toNat + x.val < 4096) :
    ∃ u, s.storeBytes s.base (s.regsThrough x) = some u ∧ exec (.ldMemVx x) s = .next u.advance := by
  have hr : s.base + (s.regsThrough x).length ≤ Config.memSize := by
    simp only [State.base, Config.memSize, length_regsThrough]
    omega
  obtain ⟨u, hu⟩ := State.exists_storeBytes (s := s) hr
  exact ⟨u, hu, by rw [exec_ldMemVx, hu, Option.elim_some]⟩

theorem exec_ldBVx_of_inMemory {x : Reg} {s : State} (h : s.i.toNat + 2 < 4096) :
    ∃ u, s.storeBytes s.base (decimalDigits (s.reg x)) = some u ∧ exec (.ldBVx x) s = .next u.advance := by
  have hr : s.base + (decimalDigits (s.reg x)).length ≤ Config.memSize := by
    simp only [State.base, Config.memSize, length_decimalDigits]
    omega
  obtain ⟨u, hu⟩ := State.exists_storeBytes (s := s) hr
  exact ⟨u, hu, by rw [exec_ldBVx, hu, Option.elim_some]⟩

section
variable {s u : State} {bytes : List Byte} {stored : Nat → Nat} (hm : s.mem.wf)
  (hu : s.storeBytes s.base bytes = some u)
  (hv : ∀ (k : Nat) (hk : k < bytes.length), bytes[k].toNat = stored k)
include hm hu hv

/-- Every byte after a checked store at `I`, inside the store and outside it. -/
theorem State.toNat_readByte_of_storeBytes (a : Nat) :
    (u.readByte a).toNat = byteAfterStore s bytes.length stored a := by
  unfold byteAfterStore
  split
  case isTrue ha =>
    have hk : a - s.i.toNat < bytes.length := by omega
    have hb : u.readByte (s.base + (a - s.i.toNat)) = bytes[a - s.i.toNat] :=
      State.readByte_of_storeBytes_inside hm hu _ hk
    have hadd : s.base + (a - s.i.toNat) = a := Nat.add_sub_of_le ha.1
    rw [← hv _ hk, ← hb, hadd]
  case isFalse ha =>
    have hout : a < s.i.toNat ∨ s.i.toNat + bytes.length ≤ a := by omega
    rw [State.readByte_of_storeBytes_outside hu hout]

/-- The fetch at any address after a checked store at `I`: each byte the stored one or the old one. -/
theorem State.exists_fetch_of_storeBytes (a : Word) (ha : a.toNat ≤ 4094) :
    ∃ w, (u.advance.setPc a).fetch = some w ∧
      w.toNat = byteAfterStore s bytes.length stored a.toNat * 256 +
        byteAfterStore s bytes.length stored (a.toNat + 1) := by
  obtain ⟨w, hf, hw⟩ := State.exists_fetch (s := u.advance.setPc a) ha
  refine ⟨w, hf, ?_⟩
  simpa only [State.setPc_readByte, State.advance_readByte, State.setPc_pc,
    State.toNat_readByte_of_storeBytes hm hu hv] using hw

end

/-- Settles O38: both instructions are a checked store at `I`, of registers or of digits. -/
theorem storeSeenByFetch : Obligations.StoreSeenByFetch := by
  intro x s hm
  refine ⟨fun h => ?_, fun h => ?_⟩
  · obtain ⟨u, hu, he⟩ := exec_ldMemVx_of_inMemory h
    have hf := State.exists_fetch_of_storeBytes hm hu (toNat_getElem_regsThrough s x)
    rw [length_regsThrough] at hf
    exact ⟨u.advance, he, hf⟩
  · obtain ⟨u, hu, he⟩ := exec_ldBVx_of_inMemory h
    have hf := State.exists_fetch_of_storeBytes hm hu (toNat_getElem_decimalDigits (s.reg x))
    rw [length_decimalDigits] at hf
    exact ⟨u.advance, he, hf⟩

end Sys2Proof.Machine

/-! ### Only three instructions touch the timers (R84, R85) -/

namespace Sys2Proof.Machine

section
variable (s : State)

theorem base_tick : s.tick.base = s.base := rfl

theorem regsThrough_tick (x : Reg) : s.tick.regsThrough x = s.regsThrough x := rfl

theorem loadBytes_tick (base n : Nat) : s.tick.loadBytes base n = s.loadBytes base n := rfl

theorem drawn_tick (x y : Reg) (sprite : List Byte) : s.tick.drawn x y sprite = (s.drawn x y sprite).tick := rfl

theorem storeBytes_tick (base : Nat) (bytes : List Byte) :
    s.tick.storeBytes base bytes = (s.storeBytes base bytes).map State.tick := by
  unfold State.storeBytes
  split <;> rfl

theorem push_tick (w : Word) : s.tick.push w = (s.push w).map State.tick := by
  simp only [State.push, apply_dite (Option.map State.tick)]
  rfl

theorem pop_tick : s.tick.pop = s.pop.map fun p => (p.1, p.2.tick) := by
  simp only [State.pop, apply_dite (Option.map _)]
  rfl

end


/-- Settles O52: an instruction that neither reads nor writes a timer does the same before a tick as after it. -/
theorem ticksCommuteWithExecute : Obligations.TicksCommuteWithExecute := by
  intro i s hi
  cases i with
  | ldVxDt x => exact absurd rfl (hi x).1
  | ldDtVx x => exact absurd rfl (hi x).2.1
  | ldStVx x => exact absurd rfl (hi x).2.2
  | call nnn =>
    simp only [exec_call, State.tick_pc, push_tick]
    cases s.push s.pc <;> rfl
  | ret =>
    simp only [exec_ret, pop_tick]
    cases s.pop <;> rfl
  | drw x y n =>
    simp only [exec_drw, base_tick, loadBytes_tick, drawn_tick]
    cases s.loadBytes s.base n <;> rfl
  | ldBVx x =>
    simp only [exec_ldBVx, base_tick, State.tick_reg, storeBytes_tick]
    cases s.storeBytes s.base (decimalDigits (s.reg x)) <;> rfl
  | ldMemVx x =>
    simp only [exec_ldMemVx, base_tick, regsThrough_tick, storeBytes_tick]
    cases s.storeBytes s.base (s.regsThrough x) <;> rfl
  | ldVxMem x =>
    simp only [exec_ldVxMem, base_tick, loadBytes_tick]
    cases s.loadBytes s.base (x.val + 1) <;> rfl
  | skp x =>
    simp only [exec, execSkp, State.tick_reg]
    cases keyNumber (s.reg x) <;> rfl
  | sknp x =>
    simp only [exec, execSknp, State.tick_reg]
    cases keyNumber (s.reg x) <;> rfl
  | _ => rfl

end Sys2Proof.Machine

/-! ### Words and their fields (R100, R101) -/

namespace Sys2Proof

theorem nibble2_lt (w : Word) : nibble2 w < 16 := Nat.mod_lt _ (by decide)

theorem nibble3_lt (w : Word) : nibble3 w < 16 := Nat.mod_lt _ (by decide)

theorem nibble4_lt (w : Word) : nibble4 w < 16 := Nat.mod_lt _ (by decide)

@[simp] theorem fieldX_val (w : Word) : (fieldX w).val = nibble2 w := Nat.mod_eq_of_lt (nibble2_lt w)

@[simp] theorem fieldY_val (w : Word) : (fieldY w).val = nibble3 w := Nat.mod_eq_of_lt (nibble3_lt w)

/-- A word is the word of four nibbles exactly when they are its nibbles (R100). -/
theorem nibblesToWord_eq_iff {n1 n2 n3 n4 : Nat} {w : Word} (h1 : n1 < 16) (h2 : n2 < 16) (h3 : n3 < 16)
    (h4 : n4 < 16) :
    nibblesToWord n1 n2 n3 n4 = w ↔ nibble1 w = n1 ∧ nibble2 w = n2 ∧ nibble3 w = n3 ∧ nibble4 w = n4 := by
  simp only [nibblesToWord, nibble1, nibble2, nibble3, nibble4, ← BitVec.toNat_inj, BitVec.toNat_ofNat]
  omega

theorem wordXkk_fields_eq_iff {n1 : Nat} {w : Word} (h1 : n1 < 16) :
    wordXkk n1 (fieldX w) (fieldKk w) = w ↔ nibble1 w = n1 := by
  simp only [wordXkk, fieldX_val, fieldKk, nibble1, nibble2, ← BitVec.toNat_inj, BitVec.toNat_ofNat]
  omega

theorem wordNnn_fieldNnn_eq_iff {n1 : Nat} {w : Word} (h1 : n1 < 16) :
    wordNnn n1 (fieldNnn w) = w ↔ nibble1 w = n1 := by
  simp only [wordNnn, fieldNnn, nibble1, ← BitVec.toNat_inj, BitVec.toNat_ofNat]
  omega

theorem nibble1_wordXkk {n1 : Nat} (h1 : n1 < 16) (x : Reg) (kk : Byte) : nibble1 (wordXkk n1 x kk) = n1 := by
  simp only [wordXkk, nibble1, BitVec.toNat_ofNat]
  omega

theorem fieldX_wordXkk (n1 : Nat) (x : Reg) (kk : Byte) : fieldX (wordXkk n1 x kk) = x := by
  simp only [wordXkk, nibble2, Fin.ext_iff, fieldX_val, BitVec.toNat_ofNat]
  omega

theorem fieldKk_wordXkk (n1 : Nat) (x : Reg) (kk : Byte) : fieldKk (wordXkk n1 x kk) = kk := by
  simp only [wordXkk, fieldKk, ← BitVec.toNat_inj, BitVec.toNat_ofNat]
  omega

theorem nibble1_wordNnn {n1 : Nat} (h1 : n1 < 16) (nnn : Word) : nibble1 (wordNnn n1 nnn) = n1 := by
  simp only [wordNnn, nibble1, BitVec.toNat_ofNat]
  omega

theorem fieldNnn_wordNnn {nnn : Word} (h : addressFits nnn = true) (n1 : Nat) : fieldNnn (wordNnn n1 nnn) = nnn := by
  have hn : nnn.toNat < 0x1000 := of_decide_eq_true h
  simp only [wordNnn, fieldNnn, ← BitVec.toNat_inj, BitVec.toNat_ofNat]
  omega

/-- The arithmetic form of a word in which the obligations name its nibbles. -/
theorem ofNat_eq_nibblesToWord (n1 x y n4 : Nat) :
    BitVec.ofNat 16 (4096 * n1 + 256 * x + 16 * y + n4) = nibblesToWord n1 x y n4 := by
  unfold nibblesToWord
  congr 1
  omega

theorem ofNat_eq_nibblesToWord_low (n1 x low : Nat) :
    BitVec.ofNat 16 (4096 * n1 + 256 * x + low) = nibblesToWord n1 x (low / 16) (low % 16) := by
  rw [← ofNat_eq_nibblesToWord, Nat.add_assoc _ (16 * _), Nat.div_add_mod]

theorem ofNat_eq_wordXkk (n1 : Nat) (x : Reg) (kk : Byte) :
    BitVec.ofNat 16 (4096 * n1 + 256 * x + kk.toNat) = wordXkk n1 x kk := by
  rw [wordXkk, Nat.mul_comm n1, Nat.mul_comm x.val]

theorem ofNat_eq_wordNnn (n1 : Nat) {a : Nat} (ha : a < 4096) :
    BitVec.ofNat 16 (4096 * n1 + a) = wordNnn n1 (BitVec.ofNat 16 a) := by
  rw [wordNnn, BitVec.toNat_ofNat, Nat.mod_eq_of_lt (by omega : a < 2 ^ 16), Nat.mod_eq_of_lt ha, Nat.mul_comm]

/-- A word laid out as memory holds it, the high byte first, is read back (R77, R100). -/
theorem bytesToWord_highByte_lowByte (w : Word) : bytesToWord (highByte w) (lowByte w) = w := by
  simp only [bytesToWord, highByte, lowByte, ← BitVec.toNat_inj, BitVec.toNat_ofNat]
  omega

end Sys2Proof

/-! ### Decoding by the rows of one family (R103) -/

namespace Sys2Proof

/-- The rows of the opcode map with first nibble `n1` (R103: "primary selection on n1"). -/
def family (n1 : Nat) : List OpcodeRow := opcodeMap.filter fun r => r.n1 == n1

/-- What the decoder answers when only these rows count; of the whole opcode map this is `decode`. -/
def decodeAmong (rows : List OpcodeRow) (w : Word) : Except Reject Instr :=
  (decodeIn rows w).elim (.error (.unrecognizedOpcode w)) .ok

theorem decode_eq_decodeAmong (w : Word) : decode w = decodeAmong opcodeMap w := by
  unfold decode decodeAmong
  cases decodeIn opcodeMap w <;> rfl

@[simp] theorem decodeAmong_nil (w : Word) : decodeAmong [] w = .error (.unrecognizedOpcode w) := rfl

@[simp] theorem decodeAmong_cons (r : OpcodeRow) (rows : List OpcodeRow) (w : Word) :
    decodeAmong (r :: rows) w = if r.fits w then .ok (r.build w) else decodeAmong rows w := by
  rw [decodeAmong, decodeIn]
  split <;> rfl

theorem decodeIn_eq_find? (rows : List OpcodeRow) (w : Word) :
    decodeIn rows w = (rows.find? fun r => r.fits w).map fun r => r.build w := by
  induction rows with
  | nil => rfl
  | cons r rest ih =>
    unfold decodeIn
    cases h : r.fits w <;> simp [h, ih]

theorem n1_eq_of_fits {r : OpcodeRow} {w : Word} (h : r.fits w = true) : r.n1 = nibble1 w := by
  simp only [OpcodeRow.fits, Bool.and_eq_true, beq_iff_eq] at h
  obtain ⟨⟨⟨h1, _⟩, _⟩, _⟩ := h
  exact h1.symm

/-- The rows of the other families never fit, so decoding looks at the word's own family alone (R103). -/
theorem decode_eq_family (w : Word) : decode w = decodeAmong (family (nibble1 w)) w := by
  have hfits (r : OpcodeRow) : (r.n1 == nibble1 w && r.fits w) = r.fits w := by
    cases h : r.fits w
    · exact Bool.and_false _
    · simp [n1_eq_of_fits h]
  rw [decode_eq_decodeAmong, decodeAmong, decodeAmong, decodeIn_eq_find?, decodeIn_eq_find?, family,
    List.find?_filter]
  simp only [Bool.decide_and, Bool.decide_eq_true, hfits]

/-- A row of four fixed nibbles fits its own word alone. -/
theorem fits_fixed_iff {n1 n2 n3 n4 : Nat} {build : Word → Instr} {w : Word} (h1 : n1 < 16) (h2 : n2 < 16)
    (h3 : n3 < 16) (h4 : n4 < 16) :
    OpcodeRow.fits ⟨n1, some n2, some n3, some n4, build⟩ w = true ↔ w = nibblesToWord n1 n2 n3 n4 := by
  rw [eq_comm (a := w), nibblesToWord_eq_iff h1 h2 h3 h4]
  simp [OpcodeRow.fits, nibbleFits, and_assoc]

@[simp] theorem nibbleFits_none (nibble : Nat) : nibbleFits none nibble = true := rfl

/-- The last two places of a pattern, both fixed, are a fixed low byte. -/
theorem nibbleFits_and_nibbleFits {a b n3 n4 : Nat} (hb : b < 16) (h4 : n4 < 16) :
    (nibbleFits (some a) n3 && nibbleFits (some b) n4) = decide (16 * n3 + n4 = 16 * a + b) := by
  rw [Bool.eq_iff_iff]
  simp only [nibbleFits, Bool.and_eq_true, beq_iff_eq, decide_eq_true_eq]
  omega

section
variable {n1 n3 n4 : Nat} {x : Reg} (h1 : n1 < 16) (h3 : n3 < 16) (h4 : n4 < 16)
include h1 h3 h4

theorem decode_nibblesToWord :
    decode (nibblesToWord n1 x n3 n4) = decodeAmong (family n1) (nibblesToWord n1 x n3 n4) := by
  rw [decode_eq_family, ((nibblesToWord_eq_iff h1 x.isLt h3 h4).mp rfl).1]

@[simp] theorem fits_nibblesToWord (r : OpcodeRow) :
    r.fits (nibblesToWord n1 x n3 n4) =
      (n1 == r.n1 && nibbleFits r.n2 x && nibbleFits r.n3 n3 && nibbleFits r.n4 n4) := by
  obtain ⟨e1, e2, e3, e4⟩ := (nibblesToWord_eq_iff h1 x.isLt h3 h4).mp rfl
  rw [OpcodeRow.fits, e1, e2, e3, e4]

@[simp] theorem fieldX_nibblesToWord : fieldX (nibblesToWord n1 x n3 n4) = x := by
  obtain ⟨-, e2, -, -⟩ := (nibblesToWord_eq_iff h1 x.isLt h3 h4).mp rfl
  rw [Fin.ext_iff, fieldX_val, e2]

end

@[simp] theorem fieldY_nibblesToWord {n1 n4 : Nat} {x y : Reg} (h1 : n1 < 16) (h4 : n4 < 16) :
    fieldY (nibblesToWord n1 x y n4) = y := by
  obtain ⟨-, -, e3, -⟩ := (nibblesToWord_eq_iff h1 x.isLt y.isLt h4).mp rfl
  rw [Fin.ext_iff, fieldY_val, e3]

end Sys2Proof

/-! ### The answer of every family (R105 to R110) -/

namespace Sys2Proof

/-- A family of one row without fixed nibbles after the first takes every word of the family (R106). -/
theorem decode_of_family_single {n1 : Nat} {build : Word → Instr} {w : Word} (hw : nibble1 w = n1)
    (hf : family n1 = [⟨n1, none, none, none, build⟩]) : decode w = .ok (build w) := by
  simp [decode_eq_family, hw, hf, OpcodeRow.fits, nibbleFits]

theorem decode_wordNnn {n1 : Nat} {instr : Word → Instr} {nnn : Word} (h1 : n1 < 16)
    (hf : family n1 = [⟨n1, none, none, none, fun w => instr (fieldNnn w)⟩]) (hn : addressFits nnn = true) :
    decode (wordNnn n1 nnn) = .ok (instr nnn) := by
  rw [decode_of_family_single (nibble1_wordNnn h1 nnn) hf, fieldNnn_wordNnn hn]

theorem decode_wordXkk {n1 : Nat} {instr : Reg → Byte → Instr} (h1 : n1 < 16)
    (hf : family n1 = [⟨n1, none, none, none, fun w => instr (fieldX w) (fieldKk w)⟩]) (x : Reg) (kk : Byte) :
    decode (wordXkk n1 x kk) = .ok (instr x kk) := by
  rw [decode_of_family_single (nibble1_wordXkk h1 x kk) hf, fieldX_wordXkk, fieldKk_wordXkk]

theorem decode_drw (x y : Reg) {n : Nat} (hn : n < 16) : decode (nibblesToWord 0xD x y n) = .ok (.drw x y n) := by
  obtain ⟨h1, -, -, h4⟩ := (nibblesToWord_eq_iff (n1 := 0xD) (by decide) x.isLt y.isLt hn).mp rfl
  rw [decode_of_family_single h1 rfl]
  simp [hn, fieldN, h4]

/-- Family 0x0 (R105). -/
theorem decode_family_zero {w : Word} (hw : nibble1 w = 0) :
    decode w = if w = 0x00E0#16 then .ok .cls else if w = 0x00EE#16 then .ok .ret
      else .error (.unrecognizedOpcode w) := by
  have hf : family 0 = rowsLow.take 2 := rfl
  simp [decode_eq_family, hw, hf, rowsLow, fits_fixed_iff, nibblesToWord]

section
variable (x y : Reg) {n4 : Nat} (h4 : n4 < 16)
include h4

/-- Family 0x5 (R107). -/
theorem decode_family_five : decode (nibblesToWord 0x5 x y n4) =
    if n4 = 0 then .ok (.seReg x y) else .error (.unrecognizedOpcode (nibblesToWord 0x5 x y n4)) := by
  have hf : family 0x5 = (rowsLow.drop 6).take 1 := rfl
  simp [decode_nibblesToWord, hf, rowsLow, nibbleFits, h4]

/-- Family 0x9 (R107). -/
theorem decode_family_nine : decode (nibblesToWord 0x9 x y n4) =
    if n4 = 0 then .ok (.sneReg x y) else .error (.unrecognizedOpcode (nibblesToWord 0x9 x y n4)) := by
  have hf : family 0x9 = rowsHigh.take 1 := rfl
  simp [decode_nibblesToWord, hf, rowsHigh, nibbleFits, h4]

/-- Family 0x8 (R108). -/
theorem decode_family_eight : decode (nibblesToWord 0x8 x y n4) =
    if n4 = 0 then .ok (.ldReg x y) else if n4 = 1 then .ok (.orReg x y) else if n4 = 2 then .ok (.andReg x y)
    else if n4 = 3 then .ok (.xorReg x y) else if n4 = 4 then .ok (.addReg x y) else if n4 = 5 then .ok (.sub x y)
    else if n4 = 6 then .ok (.shr x y) else if n4 = 7 then .ok (.subn x y) else if n4 = 0xE then .ok (.shl x y)
    else .error (.unrecognizedOpcode (nibblesToWord 0x8 x y n4)) := by
  have hf : family 0x8 = rowsEight := rfl
  simp [decode_nibblesToWord, hf, rowsEight, nibbleFits, h4]

variable {n3 : Nat} (h3 : n3 < 16)
include h3

/-- Family 0xE, by the low byte (R109). -/
theorem decode_family_E : decode (nibblesToWord 0xE x n3 n4) =
    if 16 * n3 + n4 = 0x9E then .ok (.skp x) else if 16 * n3 + n4 = 0xA1 then .ok (.sknp x)
    else .error (.unrecognizedOpcode (nibblesToWord 0xE x n3 n4)) := by
  have hf : family 0xE = rowsHigh.drop 5 := rfl
  simp [decode_nibblesToWord, hf, rowsHigh, nibbleFits_and_nibbleFits, h3, h4]

/-- Family 0xF, by the low byte (R110). -/
theorem decode_family_F : decode (nibblesToWord 0xF x n3 n4) =
    if 16 * n3 + n4 = 0x07 then .ok (.ldVxDt x) else if 16 * n3 + n4 = 0x0A then .ok (.ldVxK x)
    else if 16 * n3 + n4 = 0x15 then .ok (.ldDtVx x) else if 16 * n3 + n4 = 0x18 then .ok (.ldStVx x)
    else if 16 * n3 + n4 = 0x1E then .ok (.addIVx x) else if 16 * n3 + n4 = 0x29 then .ok (.ldFVx x)
    else if 16 * n3 + n4 = 0x33 then .ok (.ldBVx x) else if 16 * n3 + n4 = 0x55 then .ok (.ldMemVx x)
    else if 16 * n3 + n4 = 0x65 then .ok (.ldVxMem x)
    else .error (.unrecognizedOpcode (nibblesToWord 0xF x n3 n4)) := by
  have hf : family 0xF = rowsF := rfl
  simp [decode_nibblesToWord, hf, rowsF, nibbleFits_and_nibbleFits, h3, h4]

end

end Sys2Proof

/-! ### The round trip of words and instructions (R103, R104) -/

namespace Sys2Proof

theorem decode_encode {i : Instr} (hi : i.wellFormed = true) : decode i.encode = .ok i := by
  cases i with
  | cls | ret => decide
  | jp nnn | call nnn | ldI nnn | jpV0 nnn => exact decode_wordNnn (by decide) rfl hi
  | seImm x kk | sneImm x kk | ldImm x kk | addImm x kk | rnd x kk => exact decode_wordXkk (by decide) rfl x kk
  | seReg x y => exact decode_family_five x y (by decide)
  | sneReg x y => exact decode_family_nine x y (by decide)
  | ldReg x y | orReg x y | andReg x y | xorReg x y | addReg x y | sub x y | shr x y | subn x y | shl x y =>
    exact decode_family_eight x y (by decide)
  | drw x y n =>
    have hn : n < 16 := of_decide_eq_true hi
    rw [Instr.encode, Nat.mod_eq_of_lt hn, decode_drw x y hn]
  | skp x | sknp x => exact decode_family_E x (by decide) (by decide)
  | ldVxDt x | ldVxK x | ldDtVx x | ldStVx x | addIVx x | ldFVx x | ldBVx x | ldMemVx x | ldVxMem x =>
    exact decode_family_F x (by decide) (by decide)

theorem decodeBytes_bytes_append {i : Instr} (hi : i.wellFormed = true) (rest : List Byte) :
    decodeBytes (i.bytes ++ rest) = .ok (i, rest) := by
  show (decode (bytesToWord (highByte i.encode) (lowByte i.encode))).map (fun j => (j, rest)) = .ok (i, rest)
  rw [bytesToWord_highByte_lowByte, decode_encode hi]
  rfl

/-- A word that a row fits is the word of the instruction that the row builds from it (R103, R104). -/
theorem encode_build_of_fits (w : Word) : ∀ r ∈ opcodeMap, r.fits w = true → (r.build w).encode = w := by
  have hcls : 0x00E0#16 = nibblesToWord 0 0 0xE 0 := rfl
  have hret : 0x00EE#16 = nibblesToWord 0 0 0xE 0xE := rfl
  have hn : fieldN w % 16 = nibble4 w := Nat.mod_mod _ _
  simp +contextual [opcodeMap, rowsLow, rowsEight, rowsHigh, rowsF, OpcodeRow.fits, nibbleFits, Instr.encode, hcls,
    hret, hn, wordNnn_fieldNnn_eq_iff, wordXkk_fields_eq_iff, nibblesToWord_eq_iff, nibble2_lt, nibble3_lt, nibble4_lt]

theorem exists_row_of_decode {w : Word} {i : Instr} (h : decode w = .ok i) :
    ∃ r ∈ opcodeMap, r.fits w = true ∧ r.build w = i := by
  rw [decode_eq_decodeAmong, decodeAmong, decodeIn_eq_find?] at h
  cases hr : opcodeMap.find? fun r => r.fits w with
  | none => simp [hr] at h
  | some r =>
    rw [hr] at h
    exact ⟨r, List.mem_of_find?_eq_some hr, List.find?_some (p := fun r : OpcodeRow => r.fits w) hr, Except.ok.inj h⟩

/-- Settles O2: the cases of the instruction, each by the answer of its family. -/
theorem decodeOfEncode : Obligations.DecodeOfEncode :=
  fun _ hi => ⟨decode_encode hi, decodeBytes_bytes_append hi⟩

/-- Settles O3: the word fits the row that answered, and the row gives the word back. -/
theorem encodeOfDecode : Obligations.EncodeOfDecode := by
  intro w i h
  obtain ⟨r, hr, hfit, rfl⟩ := exists_row_of_decode h
  exact ⟨wellFormed_of_decode h, encode_build_of_fits w r hr hfit⟩

end Sys2Proof

/-! ### The families of the opcode map (R104 to R110) -/

namespace Sys2Proof

/-- Settles O1: the decoder run on each word. -/
theorem decodeSampleWords : Obligations.DecodeSampleWords := by
  unfold Obligations.DecodeSampleWords
  decide

/-- Settles O4: the nibbles read off the word, then the answers of the three families. -/
theorem familiesZeroFiveNine : Obligations.FamiliesZeroFiveNine := by
  refine ⟨fun w hw => decode_family_zero ?_, fun x y n4 w h4 => ⟨?_, ?_⟩⟩
  · unfold nibble1
    omega
  · intro hw
    obtain rfl := hw.trans (ofNat_eq_nibblesToWord 0x5 x y n4)
    exact decode_family_five x y h4
  · intro hw
    obtain rfl := hw.trans (ofNat_eq_nibblesToWord 0x9 x y n4)
    exact decode_family_nine x y h4

/-- Settles O5: each sum is the word of its format, which its family's only row takes. -/
theorem familiesOfOneInstruction : Obligations.FamiliesOfOneInstruction := by
  refine ⟨fun a ha => ?_, fun x kk => ?_, fun x y n hn => ?_⟩
  · have hfit : addressFits (BitVec.ofNat 16 a) = true := by
      simp only [addressFits, BitVec.toNat_ofNat, decide_eq_true_eq]
      omega
    have hword (n1 : Nat) := ofNat_eq_wordNnn n1 ha
    exact ⟨hword 0x1 ▸ decode_wordNnn (by decide) rfl hfit, hword 0x2 ▸ decode_wordNnn (by decide) rfl hfit,
      hword 0xA ▸ decode_wordNnn (by decide) rfl hfit, hword 0xB ▸ decode_wordNnn (by decide) rfl hfit⟩
  · have hword (n1 : Nat) := ofNat_eq_wordXkk n1 x kk
    exact ⟨hword 0x3 ▸ decode_wordXkk (by decide) rfl x kk, hword 0x4 ▸ decode_wordXkk (by decide) rfl x kk,
      hword 0x6 ▸ decode_wordXkk (by decide) rfl x kk, hword 0x7 ▸ decode_wordXkk (by decide) rfl x kk,
      hword 0xC ▸ decode_wordXkk (by decide) rfl x kk⟩
  · exact ofNat_eq_nibblesToWord 0xD x y n ▸ decode_drw x y hn

/-- Settles O6: the answers of the three families, the last two with the low byte put together from its nibbles. -/
theorem familiesEightEF : Obligations.FamiliesEightEF := by
  refine ⟨fun x y n4 w h4 hw => ?_, fun x y y' s => ⟨rfl, rfl⟩, fun x low w hlow hw => ?_,
    fun x low w hlow hw => ?_⟩
  · obtain rfl := hw.trans (ofNat_eq_nibblesToWord 0x8 x y n4)
    exact decode_family_eight x y h4
  · obtain rfl := hw.trans (ofNat_eq_nibblesToWord_low 0xE x low)
    rw [decode_family_E x (Nat.mod_lt _ (by decide)) (Nat.div_lt_of_lt_mul hlow), Nat.div_add_mod]
  · obtain rfl := hw.trans (ofNat_eq_nibblesToWord_low 0xF x low)
    rw [decode_family_F x (Nat.mod_lt _ (by decide)) (Nat.div_lt_of_lt_mul hlow), Nat.div_add_mod]

end Sys2Proof

/-! ### The step by run state (R131 to R133, R246) -/

namespace Sys2Proof.Machine

theorem cpuStep_of_faulted {s : State} {k : Fault} (h : s.rs = .faulted k) : cpuStep s = .fault k := by
  simp only [cpuStep, h]

theorem cpuStep_of_awaiting {s : State} {x : Reg} (h : s.rs = .awaitingKey x) : cpuStep s = .next s := by
  simp only [cpuStep, h]

theorem cpuStep_of_decode {s : State} {w : Word} {i : Instr} (h : s.rs = .running) (hf : s.fetch = some w)
    (hd : decode w = .ok i) : cpuStep s = exec i s := by
  simp only [cpuStep, h, hf, runWord, hd]

/-- Only a key event makes the CPU's transition anything but `Step()`. -/
theorem cpuTurn_eq_cpuStep {s : State} (h : ∀ x, s.rs = .awaitingKey x → Config.keyEvent s.draws = none) :
    cpuTurn s = cpuStep s := by
  unfold cpuTurn
  split
  case h_1 x hx => rw [h x hx]
  case h_2 => rfl
  case h_3 => rfl

theorem step_eq_cpuStep {s : State} (h : ∀ x, s.rs = .awaitingKey x → Config.keyEvent s.draws = none) :
    step s = onNext State.environment (cpuStep s) :=
  congrArg (onNext State.environment) (cpuTurn_eq_cpuStep h)

theorem State.keyPress_of_faulted {s : State} {k : Fault} (h : s.rs = .faulted k) (key : Key) : s.keyPress key = s := by
  simp only [State.keyPress, h]

/-- Settles O11: each agent's transition looks at the run state first. -/
theorem faultedIsTerminal : Obligations.FaultedIsTerminal := by
  intro s k h
  have hstep : step s = .fault k := by
    rw [step_eq_cpuStep (by simp [h]), cpuStep_of_faulted h, onNext]
  exact ⟨cpuStep_of_faulted h, hstep, State.keyPress_of_faulted h, h⟩

end Sys2Proof.Machine

/-! ### The moves of the timer and the host (R271, R272, R278) -/

namespace Sys2Proof.Machine

theorem toNat_tickTimer (t : Byte) : (tickTimer t).toNat = t.toNat - 1 := toNat_tickTimerBy 1 t

theorem State.ticks_zero (s : State) : s.ticks 0 = s := by
  simp only [State.ticks, tickTimerBy_zero]
  rfl

theorem State.ticks_succ (n : Nat) (s : State) : s.ticks (n + 1) = (s.ticks n).tick := by
  simp only [State.ticks, tickTimerBy_succ]
  rfl

/-- n ticks at once are n ticks one after another. -/
theorem State.ticks_eq_iterate_tick (n : Nat) (s : State) : s.ticks n = State.tick^[n] s := by
  induction n with
  | zero => exact s.ticks_zero
  | succ n ih => rw [State.ticks_succ, ih, Function.iterate_succ_apply']

theorem State.clearDcIf_true (s : State) : s.clearDcIf true = s.clearDc := by
  simp only [State.clearDcIf, Bool.not_true, ite_self, State.clearDc]

theorem State.clearDcIf_false (s : State) : s.clearDcIf false = s := by
  simp only [State.clearDcIf, Bool.not_false, Bool.if_true_left, Bool.or_false, Bool.decide_eq_true]
  rfl

/-- The frame of the moves between two transitions of the CPU: the timers, `DC` and the count of free values. -/
theorem State.environment_keeps (s : State) :
    Keeps [.delay, .sound, .displayChanged, .draws] [] s s.environment :=
  ((((Keeps.refl _ _ s).setDt (by decide) _).setSt (by decide) _).setDc (by decide) _).spendDraw (by decide)

theorem State.dc_of_environment_dc {s : State} (h : s.environment.dc = true) : s.dc = true := by
  rw [State.environment_dc] at h
  split at h
  case isTrue hd => exact hd
  case isFalse => cases h

/-- A string of two bytes is decoded as their word, the high byte first (R77, R100). -/
theorem decode_of_decodeBytes_pair {hi lo : Byte} {i : Instr} {rest : List Byte}
    (h : decodeBytes [hi, lo] = .ok (i, rest)) : decode (bytesToWord hi lo) = .ok i := by
  rw [decodeBytes] at h
  cases hd : decode (bytesToWord hi lo) with
  | error e =>
    rw [hd] at h
    cases h
  | ok j =>
    rw [hd] at h
    cases h
    rfl

/-- Settles O8: the fetch reads those two bytes, and the environment's moves follow any next state. -/
theorem stepRunsDecodedInstruction : Obligations.StepRunsDecodedInstruction := by
  refine ⟨fun s i rest hr hpc hb => ?_, fun s => ?_⟩
  · have hf : s.fetch = some (bytesToWord (s.readByte s.pc.toNat) (s.readByte (s.pc.toNat + 1))) :=
      State.fetch_eq_some.mpr ⟨hpc, rfl⟩
    have hc : cpuStep s = exec i s := cpuStep_of_decode hr hf (decode_of_decodeBytes_pair hb)
    refine ⟨hc, ?_⟩
    rw [step_eq_cpuStep (by simp [hr]), hc]
    cases exec i s <;> rfl
  · exact ⟨s.environment_keeps, rfl, ⟨Config.ticks s.draws, toNat_tickTimerBy _ _, toNat_tickTimerBy _ _⟩,
      State.dc_of_environment_dc, rfl⟩

/-- Settles O12: no agent but a key event leaves the wait, and the environment's frame is that of the whole step. -/
theorem waitingStepChangesNothing : Obligations.WaitingStepChangesNothing := by
  intro s x h
  have hresult : s.result = .waiting := by simp only [State.result, h]
  refine ⟨cpuStep_of_awaiting h, hresult, h, h, toNat_tickTimer s.dt, toNat_tickTimer s.st, fun hk => ?_⟩
  have hstep : step s = .next s.environment := by
    rw [step_eq_cpuStep fun _ _ => hk, cpuStep_of_awaiting h, onNext]
  exact ⟨s.environment, hstep, h, rfl, s.environment_keeps⟩

end Sys2Proof.Machine

/-! ### A step as an interleaving (R130) -/

namespace Sys2Proof.Machine

theorem moves_cons_of_move {m : Move} {s u : State} (h : s.move m = .next u) (ms : List Move) :
    s.moves (m :: ms) = u.moves ms := by
  rw [State.moves, h]

theorem moves_ticks_append (n : Nat) (ms : List Move) (s : State) :
    s.moves (List.replicate n .tick ++ ms) = (s.ticks n).moves ms := by
  rw [State.ticks_eq_iterate_tick]
  induction n generalizing s with
  | zero => rfl
  | succ n ih => exact ih s.tick

/-- The host's part of the environment is no move or one clear of `DC`. -/
theorem exists_moves_eq_clearDcIf (c : Bool) (s : State) :
    ∃ ms : List Move, (ms = [] ∨ ms = [.clearDc]) ∧ s.moves ms = .next (s.clearDcIf c) := by
  cases c with
  | false => exact ⟨[], .inl rfl, by rw [State.clearDcIf_false, State.moves]⟩
  | true => exact ⟨[.clearDc], .inr rfl, by rw [State.clearDcIf_true]; rfl⟩

/-- The CPU's transition is one move: the completion of a wait or `Step()`. -/
theorem exists_move_of_cpuTurn {s u : State} (h : cpuTurn s = .next u) :
    ∃ m : Move, (m = .cpu ∨ ∃ x k, s.rs = .awaitingKey x ∧ m = .keyPress k) ∧ s.move m = .next u := by
  obtain ⟨x, k, hr, _, rfl⟩ | hc := cpuTurn_cases h
  · exact ⟨.keyPress k, .inr ⟨x, k, hr, rfl⟩, rfl⟩
  · exact ⟨.cpu, .inl rfl, hc⟩

/-- Settles O10: the CPU's move, then the free ticks and the free clear of `DC` as moves on what it left. -/
theorem stepIsInterleaving : Obligations.StepIsInterleaving := by
  intro s t h
  obtain ⟨v, hv, rfl⟩ := step_eq_next.mp h
  obtain ⟨m, hm, hmove⟩ := exists_move_of_cpuTurn hv
  obtain ⟨c, hc, hclear⟩ := exists_moves_eq_clearDcIf (Config.hostClearsDc v.draws) (v.ticks (Config.ticks v.draws))
  refine ⟨m, Config.ticks v.draws, c, _, hm, hc, ?_, rfl⟩
  rw [moves_cons_of_move hmove, moves_ticks_append, hclear]

end Sys2Proof.Machine

/-! ### The run state an execute stage leaves (R139, R140, R260) -/

namespace Sys2Proof.Machine

theorem State.rs_of_push {s u : State} {w : Word} (h : s.push w = some u) : u.rs = s.rs := by
  obtain ⟨_, rfl⟩ := State.push_eq_some.mp h
  rfl

theorem State.rs_of_pop {s : State} {p : Word × State} (h : s.pop = some p) : p.2.rs = s.rs := by
  obtain ⟨_, _, hu⟩ := State.pop_eq_some.mp h
  rw [hu, State.setSp_rs]

theorem State.rs_of_storeBytes {s u : State} {base : Nat} {bytes : List Byte}
    (h : s.storeBytes base bytes = some u) : u.rs = s.rs := by
  obtain ⟨_, rfl⟩ := State.storeBytes_eq_some.mp h
  rfl

/-- Settles O14: each checked operation keeps `RS` or takes its own error, and every other instruction but Fx0A keeps `RS`
by its frame. -/
theorem runStateAfterExecute : Obligations.RunStateAfterExecute := by
  intro i s t hr h
  have hk := exec_keeps h
  rw [← hr]
  cases i with
  | ldVxK x =>
    obtain rfl := Host.Outcome.next.inj h
    exact .inr (.inl ⟨x, rfl, rfl⟩)
  | call nnn =>
    obtain rfl | ⟨u, hu, rfl⟩ := exec_call_cases h
    · exact .inr (.inr (.inl ⟨nnn, rfl, rfl⟩))
    · exact .inl ((State.setPc_rs u nnn).trans (State.rs_of_push hu))
  | ret =>
    obtain rfl | ⟨p, hp, rfl⟩ := exec_ret_cases h
    · exact .inr (.inr (.inr (.inl ⟨rfl, rfl⟩)))
    · exact .inl ((State.setPc_rs p.2 _).trans (State.rs_of_pop hp))
  | drw x y n =>
    obtain rfl | ⟨_, _, rfl⟩ := exec_drw_cases h
    · exact .inr (.inr (.inr (.inr ⟨.inl ⟨x, y, n, rfl⟩, rfl⟩)))
    · exact .inl rfl
  | ldBVx x =>
    obtain rfl | ⟨u, hu, rfl⟩ := exec_ldBVx_cases h
    · exact .inr (.inr (.inr (.inr ⟨.inr (.inl ⟨x, rfl⟩), rfl⟩)))
    · exact .inl ((State.advance_rs u).trans (State.rs_of_storeBytes hu))
  | ldMemVx x =>
    obtain rfl | ⟨u, hu, rfl⟩ := exec_ldMemVx_cases h
    · exact .inr (.inr (.inr (.inr ⟨.inr (.inr (.inl ⟨x, rfl⟩)), rfl⟩)))
    · exact .inl ((State.advance_rs u).trans (State.rs_of_storeBytes hu))
  | ldVxMem x =>
    obtain rfl | ⟨_, _, rfl⟩ := exec_ldVxMem_cases h
    · exact .inr (.inr (.inr (.inr ⟨.inr (.inr (.inr ⟨x, rfl⟩)), rfl⟩)))
    · exact .inl rfl
  | _ => exact .inl (hk.runState (by simp [writtenParts]))

/-- Where only `RS` was written, the run state tells the whole state. -/
theorem State.eq_setRs_of_rs {s t : State} {r r' : RunState} (h : t = s.setRs r) (ht : t.rs = r') :
    t = s.setRs r' := by
  subst h
  exact congrArg s.setRs ht

/-- An execute stage that leaves a running machine faulted writes only `RS` (R139). -/
theorem exec_faulted_eq_setRs {i : Instr} {s t : State} {k : Fault} (hr : s.rs = .running) (h : exec i s = .next t)
    (ht : t.rs = .faulted k) : t = s.setRs (.faulted k) := by
  obtain he | ⟨x, _, he⟩ | ⟨_, he⟩ := exec_rs_cases h
  · rw [he, hr] at ht
    cases ht
  · exact State.eq_setRs_of_rs he ht
  · exact State.eq_setRs_of_rs he ht

/-- Settles O15: the error was taken at the fetch, at the decode or in the execute stage. -/
theorem faultsArePrecise : Obligations.FaultsArePrecise := by
  intro s t k hr h ht
  obtain ⟨x, hx, _⟩ | ⟨_, _, he⟩ | ⟨_, _, _, _, _, he⟩ | ⟨_, w, i, _, _, hexec⟩ := cpuStep_cases h
  · rw [hr] at hx
    cases hx
  · exact State.eq_setRs_of_rs he ht
  · exact State.eq_setRs_of_rs he ht
  · exact exec_faulted_eq_setRs hr hexec ht

end Sys2Proof.Machine

/-! ### The only refusal (R141, R247) -/

namespace Sys2Proof.Machine

theorem elim_raise_isNext {α : Type} (o : Option α) (k : Fault) (f : α → State) (s : State) :
    ∃ t, o.elim (raise k s) (fun a => .next (f a)) = .next t := by
  cases o with
  | none => exact ⟨_, rfl⟩
  | some a => exact ⟨f a, rfl⟩

section
variable {x : Reg} {s : State}

theorem exec_skp_of_ge (h : 16 ≤ (s.reg x).toNat) : exec (.skp x) s = .refused .keyIndexOutOfRange := by
  simp only [exec, execSkp, keyNumber_eq_none.mpr h]

theorem exec_sknp_of_ge (h : 16 ≤ (s.reg x).toNat) : exec (.sknp x) s = .refused .keyIndexOutOfRange := by
  simp only [exec, execSknp, keyNumber_eq_none.mpr h]

theorem exec_skp_of_keyNumber {k : Key} (h : keyNumber (s.reg x) = some k) :
    exec (.skp x) s = .next (s.spendDraw.skipIf (Config.keyPressed s.draws k)) := by
  simp only [exec, execSkp, h]

theorem exec_sknp_of_keyNumber {k : Key} (h : keyNumber (s.reg x) = some k) :
    exec (.sknp x) s = .next (s.spendDraw.skipIf (!Config.keyPressed s.draws k)) := by
  simp only [exec, execSknp, h]

end

/-- Every execute stage answers a next state, but for a key query with a value that names no key. -/
theorem exec_isNext_or_refused (i : Instr) (s : State) :
    (∃ t, exec i s = .next t) ∨
    (exec i s = .refused .keyIndexOutOfRange ∧ ∃ x, (i = .skp x ∨ i = .sknp x) ∧ 16 ≤ (s.reg x).toNat) := by
  cases i with
  | call nnn => exact .inl (exec_call nnn s ▸ elim_raise_isNext _ _ _ s)
  | ret => exact .inl (exec_ret s ▸ elim_raise_isNext _ _ _ s)
  | drw x y n => exact .inl (exec_drw x y n s ▸ elim_raise_isNext _ _ _ s)
  | ldBVx x => exact .inl (exec_ldBVx x s ▸ elim_raise_isNext _ _ _ s)
  | ldMemVx x => exact .inl (exec_ldMemVx x s ▸ elim_raise_isNext _ _ _ s)
  | ldVxMem x => exact .inl (exec_ldVxMem x s ▸ elim_raise_isNext _ _ _ s)
  | skp x =>
    cases hk : keyNumber (s.reg x) with
    | none =>
      have hx := keyNumber_eq_none.mp hk
      exact .inr ⟨exec_skp_of_ge hx, x, .inl rfl, hx⟩
    | some k => exact .inl ⟨_, exec_skp_of_keyNumber hk⟩
  | sknp x =>
    cases hk : keyNumber (s.reg x) with
    | none =>
      have hx := keyNumber_eq_none.mp hk
      exact .inr ⟨exec_sknp_of_ge hx, x, .inr rfl, hx⟩
    | some k => exact .inl ⟨_, exec_sknp_of_keyNumber hk⟩
  | _ => exact .inl ⟨_, rfl⟩

/-- Settles O17: the two answers an execute stage can give leave no other refusal and no fault. -/
theorem onlyKeyNumbersAreRefused : Obligations.OnlyKeyNumbersAreRefused := by
  refine ⟨fun x s h => ⟨exec_skp_of_ge h, exec_sknp_of_ge h⟩, fun i s r h => ?_, fun i s k h => ?_⟩
  · obtain ⟨t, ht⟩ | ⟨hr, hx⟩ := exec_isNext_or_refused i s
    · cases h.symm.trans ht
    · exact ⟨Host.Outcome.refused.inj (h.symm.trans hr), hx⟩
  · obtain ⟨t, ht⟩ | ⟨hr, _⟩ := exec_isNext_or_refused i s
    · cases h.symm.trans ht
    · cases h.symm.trans hr

end Sys2Proof.Machine

/-! ### Control transfer (R150 to R157, R262) -/

namespace Sys2Proof.Machine

/-- The word of an instruction lies in its row of the opcode map and decodes to the instruction (R103, R104). -/
theorem encodedAs_row {i : Instr} (h : Laws.EncodesInRow.Statement i) :
    EncodedAs i (Laws.EncodesInRow.rowMask i) (Laws.EncodesInRow.rowMatch i) :=
  fun hi => ⟨h, decode_encode hi⟩

section
variable {s u : State}

/-- No word is fetched after a transfer to the last byte of memory (R134). -/
theorem fetch_setPc_top {nnn : Word} (h : nnn = 0xFFF#16) : (s.setPc nnn).fetch = none :=
  State.fetch_eq_none.mpr (by rw [State.setPc_pc, h]; decide)

theorem State.exists_push_of_lt (h : s.sp.val < 16) (w : Word) :
    ∃ u, s.push w = some u ∧ u.sp.val = s.sp.val + 1 ∧ u.stack[s.sp.val]? = some w :=
  ⟨_, State.push_eq_some.mpr ⟨h, rfl⟩, rfl, Vector.getElem?_set_self h⟩

theorem State.pop_of_top {w : Word} (h0 : s.sp.val ≠ 0) (hw : s.stack[s.sp.val - 1]? = some w) :
    s.pop = some (w, s.setSp ⟨s.sp.val - 1, by omega⟩) :=
  State.pop_eq_some.mpr ⟨h0, (Vector.getElem_eq_iff.mpr hw).symm, rfl⟩

theorem exec_call_of_push (h : s.push s.pc = some u) (nnn : Word) : exec (.call nnn) s = .next (u.setPc nnn) := by
  rw [exec_call, h]
  rfl

theorem exec_call_of_full (h : s.sp.val = 16) (nnn : Word) :
    exec (.call nnn) s = .next (s.setRs (.faulted .stackOverflow)) := by
  rw [exec_call, State.push_eq_none.mpr h]
  rfl

theorem exec_ret_of_pop {w : Word} (h : s.pop = some (w, u)) : exec .ret s = .next (u.setPc (w + 2#16)) := by
  rw [exec_ret, h]
  rfl

/-- An execute stage that skips on a condition moves `PC` by 4 or by 2 and keeps all else (R137, R138). -/
theorem exists_next_of_skipIf {i : Instr} {c : Bool} {Skip Go : Prop} (h : exec i s = .next (s.skipIf c))
    (hskip : Skip → c = true) (hgo : Go → c = false) :
    ∃ t, exec i s = .next t ∧ Keeps [] [] s t ∧ (Skip → t.pc = s.pc + 4#16) ∧ (Go → t.pc = s.pc + 2#16) := by
  refine ⟨_, h, (Keeps.refl _ _ s).skipIf c, fun hs => ?_, fun hg => ?_⟩
  · rw [State.skipIf_pc, if_pos (hskip hs)]
  · rw [State.skipIf_pc, hgo hg, if_neg Bool.false_ne_true]

end

theorem toNat_registerTarget (b : Byte) {nnn : Word} (h : addressFits nnn = true) :
    (registerTarget b nnn).toNat = b.toNat + nnn.toNat := by
  have hn : nnn.toNat < 0x1000 := of_decide_eq_true h
  rw [registerTarget, BitVec.toNat_ofNat, Nat.mod_eq_of_lt (by omega)]

/-- Settles O23: the CALL leaves its own address on top of the stack, and the RET pops that entry. -/
theorem callThenReturn : Obligations.CallThenReturn := by
  intro nnn s hsp
  obtain ⟨p, hp, hpsp, htop⟩ := State.exists_push_of_lt hsp s.pc
  refine ⟨_, exec_call_of_push hp nnn, fun u hstack hdepth => ?_⟩
  have hu : u.sp.val = s.sp.val + 1 := (congrArg Fin.val hdepth).trans hpsp
  have hw : u.stack[u.sp.val - 1]? = some s.pc := by
    rw [hu, Nat.add_sub_cancel, hstack]
    exact htop
  refine ⟨_, exec_ret_of_pop (State.pop_of_top (by omega) hw), rfl, Fin.ext ?_⟩
  show u.sp.val - 1 = s.sp.val
  omega

/-- Settles O18: the next state is `s` with `PC` at nnn, which is `s` itself when `PC` was there. -/
theorem jumpCompletes : Obligations.JumpCompletes := by
  intro nnn s
  refine ⟨encodedAs_row (Laws.EncodesInRow.jp nnn), s.setPc nnn, rfl, rfl, (Keeps.refl _ _ s).setPc nnn, ?_,
    fetch_setPc_top⟩
  rintro rfl
  rfl

/-- Settles O19: the sum of a byte and a 12-bit address fits 16 bits. -/
theorem jumpV0Completes : Obligations.JumpV0Completes := by
  intro nnn s hfit
  exact ⟨encodedAs_row (Laws.EncodesInRow.jpV0 nnn), _, rfl, toNat_registerTarget (s.reg 0) hfit,
    (Keeps.refl _ _ s).setPc _⟩

/-- Settles O20: the push answers with room on the stack and does not with 16 entries. -/
theorem callPushes : Obligations.CallPushes := by
  intro nnn s
  refine ⟨encodedAs_row (Laws.EncodesInRow.call nnn), fun hsp => ?_, fun hfull => exec_call_of_full hfull nnn⟩
  obtain ⟨u, hu, hdepth, htop⟩ := State.exists_push_of_lt hsp s.pc
  have hcall : exec (.call nnn) s = .next (u.setPc nnn) := exec_call_of_push hu nnn
  exact ⟨_, hcall, htop, fun k hk => exec_stack_outside hcall hk, hdepth, rfl,
    (Keeps.of_push hu (by decide) (by decide)).setPc nnn, fetch_setPc_top⟩

/-- Settles O21: the pop answers the entry on top and moves only `SP`. -/
theorem returnPops : Obligations.ReturnPops := by
  refine ⟨encodedAs_row Laws.EncodesInRow.ret, fun s w h0 hw => ?_⟩
  have hpop := State.pop_of_top h0 hw
  exact ⟨_, exec_ret_of_pop hpop, rfl, rfl, (Keeps.of_pop hpop (by decide)).setPc _⟩

/-- Settles O24: each of the four is the conditional skip on its own comparison. -/
theorem skipsOnRegisters : Obligations.SkipsOnRegisters := by
  refine ⟨fun x kk s => ⟨encodedAs_row (Laws.EncodesInRow.seImm x kk), encodedAs_row (Laws.EncodesInRow.sneImm x kk),
    ?_, ?_⟩, fun x y s => ⟨encodedAs_row (Laws.EncodesInRow.seReg x y), encodedAs_row (Laws.EncodesInRow.sneReg x y),
    ?_, ?_⟩⟩
  · exact exists_next_of_skipIf rfl beq_iff_eq.mpr beq_false_of_ne
  · exact exists_next_of_skipIf rfl bne_iff_ne.mpr bne_eq_false_iff_eq.mpr
  · exact exists_next_of_skipIf rfl beq_iff_eq.mpr beq_false_of_ne
  · exact exists_next_of_skipIf rfl bne_iff_ne.mpr bne_eq_false_iff_eq.mpr

end Sys2Proof.Machine

/-! ### Loads and arithmetic (R170 to R183) -/

namespace Sys2Proof.Machine

section
variable (a b : Byte)

theorem toNat_addResult : (addResult a b).toNat = (a.toNat + b.toNat) % 256 := BitVec.toNat_ofNat ..

/-- The 256 added before narrowing keeps the natural subtraction from truncating. -/
theorem toNat_subResult : ((subResult a b).toNat : Int) = (a.toNat - b.toNat : Int) % 256 := by
  have hb := b.isLt
  rw [subResult, BitVec.toNat_ofNat]
  omega

theorem toNat_shrResult : (shrResult a).toNat = a.toNat / 2 := by
  rw [shrResult, BitVec.toNat_ushiftRight, Nat.shiftRight_eq_div_pow, Nat.pow_one]

theorem toNat_shlResult : (shlResult a).toNat = a.toNat * 2 % 256 := by
  rw [shlResult, BitVec.toNat_shiftLeft, Nat.shiftLeft_eq, Nat.pow_one]

theorem flagByte_decide_of {p : Prop} [Decidable p] (h : p) : flagByte (decide p) = 1#8 := by
  rw [decide_eq_true h, flagByte, if_pos rfl]

theorem flagByte_decide_of_not {p : Prop} [Decidable p] (h : ¬p) : flagByte (decide p) = 0#8 := by
  rw [decide_eq_false h, flagByte, if_neg Bool.false_ne_true]

theorem toNat_flagByte (c : Bool) : (flagByte c).toNat = c.toNat := by
  cases c <;> rfl

theorem toNat_flagByte_shrOut : (flagByte (shrOut a)).toNat = a.toNat % 2 := by
  rw [toNat_flagByte, shrOut, BitVec.getLsbD, Nat.toNat_testBit, Nat.pow_zero, Nat.div_one]

/-- Above bit 7 a byte holds nothing, so its quotient by 128 is that bit. -/
theorem toNat_flagByte_shlOut : (flagByte (shlOut a)).toNat = a.toNat / 128 := by
  have ha := a.isLt
  rw [toNat_flagByte, shlOut, BitVec.getLsbD, Nat.toNat_testBit]
  omega

end

section
variable {i : Instr} {s : State} {x : Reg} {a b : Byte} {c : Bool}

/-- An execute stage that writes `V[x]` advances `PC` and keeps all else (R137). -/
theorem exists_next_of_setReg (h : exec i s = .next (s.setReg x b).advance) :
    ∃ t, exec i s = .next t ∧ t.reg x = b ∧ t.pc = s.pc + 2#16 ∧ Keeps [] [x] s t :=
  ⟨_, h, s.reg_setReg_self x b, rfl, ((Keeps.refl _ _ s).setReg (List.mem_singleton_self x) b).advance⟩

/-- An execute stage that writes a result and its flag: VF holds the flag, `V[x]` the result where it is another
register (R171). -/
theorem exists_next_of_setWithFlag (h : exec i s = .next (s.setWithFlag x b c).advance) :
    ∃ t, exec i s = .next t ∧ t.pc = s.pc + 2#16 ∧ Keeps [] [x, 15] s t ∧ (x ≠ 15 → t.reg x = b) ∧
      t.reg 15 = flagByte c := by
  refine ⟨_, h, rfl, ((Keeps.refl _ _ s).setWithFlag (by simp) (by simp) b c).advance, fun hx => ?_, ?_⟩
  · rw [State.advance_reg, State.reg_setWithFlag, if_neg hx, if_pos rfl]
  · rw [State.advance_reg, State.reg_setWithFlag, if_pos rfl]

/-- What SUB and SUBN share: the difference of two bytes and its no-borrow flag (R179, R181). -/
theorem exists_next_of_subtract
    (h : exec i s = .next (s.setWithFlag x (subResult a b) (subNoBorrow a b)).advance) :
    ∃ t, exec i s = .next t ∧ t.pc = s.pc + 2#16 ∧ Keeps [] [x, 15] s t ∧
      (x ≠ 15 → ((t.reg x).toNat : Int) = (a.toNat - b.toNat : Int) % 256) ∧
      (b.toNat ≤ a.toNat → t.reg 15 = 1#8) ∧ (a.toNat < b.toNat → t.reg 15 = 0#8) := by
  obtain ⟨t, ht, hpc, hk, hx, hF⟩ := exists_next_of_setWithFlag h
  refine ⟨t, ht, hpc, hk, fun hne => ?_, fun hle => ?_, fun hlt => ?_⟩
  · rw [hx hne, toNat_subResult]
  · rw [hF, subNoBorrow, flagByte_decide_of hle]
  · rw [hF, subNoBorrow, flagByte_decide_of_not (Nat.not_le.mpr hlt)]

end

/-- Settles O25: each of the three is a write of `V[x]`. -/
theorem loadsAndImmediateAdd : Obligations.LoadsAndImmediateAdd := by
  refine ⟨fun x kk s => ⟨encodedAs_row (Laws.EncodesInRow.ldImm x kk), encodedAs_row (Laws.EncodesInRow.addImm x kk),
    exists_next_of_setReg rfl, ?_⟩,
    fun x y s => ⟨encodedAs_row (Laws.EncodesInRow.ldReg x y), exists_next_of_setReg rfl⟩⟩
  obtain ⟨t, ht, hx, hpc, hk⟩ := exists_next_of_setReg (i := .addImm x kk) (s := s) rfl
  exact ⟨t, ht, by rw [hx, toNat_addResult], hpc, hk⟩

/-- Settles O26: each of the three writes `V[x]` alone, with the library's bitwise operation. -/
theorem logicHasNoFlag : Obligations.LogicHasNoFlag := by
  intro x y s
  refine ⟨encodedAs_row (Laws.EncodesInRow.orReg x y), encodedAs_row (Laws.EncodesInRow.andReg x y),
    encodedAs_row (Laws.EncodesInRow.xorReg x y), ?_, ?_, ?_⟩
  · obtain ⟨t, ht, hx, hpc, hk⟩ := exists_next_of_setReg (i := .orReg x y) (s := s) rfl
    exact ⟨t, ht, hpc, hk, fun b _ => by rw [hx, BitVec.getLsbD_or]⟩
  · obtain ⟨t, ht, hx, hpc, hk⟩ := exists_next_of_setReg (i := .andReg x y) (s := s) rfl
    exact ⟨t, ht, hpc, hk, fun b _ => by rw [hx, BitVec.getLsbD_and]⟩
  · obtain ⟨t, ht, hx, hpc, hk⟩ := exists_next_of_setReg (i := .xorReg x y) (s := s) rfl
    exact ⟨t, ht, hpc, hk, fun b _ => by rw [hx, BitVec.getLsbD_xor]⟩

/-- Settles O27: the flag of the sum is its comparison with 255. -/
theorem addSetsCarry : Obligations.AddSetsCarry := by
  intro x y s
  refine ⟨encodedAs_row (Laws.EncodesInRow.addReg x y), ?_⟩
  obtain ⟨t, ht, hpc, hk, hx, hF⟩ := exists_next_of_setWithFlag (i := .addReg x y) (s := s) rfl
  refine ⟨t, ht, hpc, hk, fun hne => ?_, fun hgt => ?_, fun hle => ?_⟩
  · rw [hx hne, toNat_addResult]
  · rw [hF, addCarry, flagByte_decide_of hgt]
  · rw [hF, addCarry, flagByte_decide_of_not (Nat.not_lt.mpr hle)]

/-- Settles O28: the two are one subtraction, with the operands exchanged. -/
theorem subtractSetsNoBorrow : Obligations.SubtractSetsNoBorrow := by
  intro x y s
  exact ⟨encodedAs_row (Laws.EncodesInRow.sub x y), encodedAs_row (Laws.EncodesInRow.subn x y),
    exists_next_of_subtract rfl, exists_next_of_subtract rfl⟩

/-- Settles O29: the bit shifted out is bit 0 for SHR and bit 7 for SHL. -/
theorem shiftsSetBitOut : Obligations.ShiftsSetBitOut := by
  intro x y s
  refine ⟨encodedAs_row (Laws.EncodesInRow.shr x y), encodedAs_row (Laws.EncodesInRow.shl x y), ?_, ?_⟩
  · obtain ⟨t, ht, hpc, hk, hx, hF⟩ := exists_next_of_setWithFlag (i := .shr x y) (s := s) rfl
    exact ⟨t, ht, hpc, hk, fun hne => by rw [hx hne, toNat_shrResult], by rw [hF, toNat_flagByte_shrOut]⟩
  · obtain ⟨t, ht, hpc, hk, hx, hF⟩ := exists_next_of_setWithFlag (i := .shl x y) (s := s) rfl
    exact ⟨t, ht, hpc, hk, fun hne => by rw [hx hne, toNat_shlResult], by rw [hF, toNat_flagByte_shlOut]⟩

/-- Settles O30: the free byte was ANDed with kk, so OR with kk adds nothing to kk. -/
theorem randomIsMasked : Obligations.RandomIsMasked := by
  intro x kk s
  have hx : (s.setReg x (Config.randomByte s.draws &&& kk)).spendDraw.advance.reg x =
      Config.randomByte s.draws &&& kk := s.reg_setReg_self x _
  refine ⟨encodedAs_row (Laws.EncodesInRow.rnd x kk), _, rfl, hx, ?_, rfl, rfl, exec_keeps (i := .rnd x kk) rfl⟩
  rw [hx]
  ext k hk
  rw [BitVec.getElem_or, BitVec.getElem_and, Bool.or_eq_right_iff_imp]
  exact Bool.and_elim_right

end Sys2Proof.Machine

/-! ### Index register and memory (R200 to R206) -/

namespace Sys2Proof.Machine

theorem toNat_glyphAddress (b : Byte) : (glyphAddress b).toNat = 0x050 + 5 * b.toNat := by
  have hb := b.isLt
  rw [glyphAddress, Config.fontBase, BitVec.toNat_ofNat]
  omega

theorem toNat_indexPlus (w : Word) (b : Byte) : (indexPlus w b).toNat = (w.toNat + b.toNat) % 65536 :=
  BitVec.toNat_ofNat ..

/-- Byte k of the registers through x, as the store's lemmas index it. -/
theorem getElem_regsThrough (s : State) {x k : Reg} (hk : k.val ≤ x.val) (hl : k.val < (s.regsThrough x).length) :
    (s.regsThrough x)[k.val] = s.reg k :=
  (List.getElem_eq_iff hl).mpr (getElem?_regsThrough s x k hk)

section
variable {i : Instr} {s u : State} {w : Word} {bytes : List Byte}

/-- An execute stage that writes `I` advances `PC` and keeps all else, VF included (R137). -/
theorem exists_next_of_setI (h : exec i s = .next (s.setI w).advance) :
    ∃ t, exec i s = .next t ∧ t.i = w ∧ t.pc = s.pc + 2#16 ∧ Keeps [.index] [] s t :=
  ⟨_, h, rfl, rfl, ((Keeps.refl _ _ s).setI (List.mem_singleton_self _) w).advance⟩

/-- An execute stage that is a checked store at `I`: the bytes stand from `I` up, every other byte and every other part
is as before (R203, R204). -/
theorem exists_next_of_storeBytes (hm : s.mem.wf) (hu : s.storeBytes s.base bytes = some u)
    (h : exec i s = .next u.advance) :
    ∃ t, exec i s = .next t ∧ t.pc = s.pc + 2#16 ∧ Keeps [.memory] [] s t ∧
      (∀ (k : Nat) (hk : k < bytes.length), t.readByte (s.i.toNat + k) = bytes[k]) ∧
      ∀ a : Nat, (a < s.i.toNat ∨ s.i.toNat + bytes.length ≤ a) → t.readByte a = s.readByte a := by
  refine ⟨_, h, ?_, (Keeps.of_storeBytes hu (List.mem_singleton_self _)).advance,
    fun k hk => State.readByte_of_storeBytes_inside hm hu k hk, fun _ => State.readByte_of_storeBytes_outside hu⟩
  obtain ⟨_, rfl⟩ := State.storeBytes_eq_some.mp hu
  rfl

end

section
variable {x : Reg} {s : State}

theorem exec_ldVxMem_of_inMemory (h : s.i.toNat + x.val < 4096) :
    ∃ bytes, s.loadBytes s.base (x.val + 1) = some bytes ∧
      exec (.ldVxMem x) s = .next (s.setV (putRegs s.v 0 bytes)).advance := by
  have hb : s.loadBytes s.base (x.val + 1) = some (s.mem.getRange s.base (x.val + 1)) :=
    State.loadBytes_eq_some.mpr ⟨.inr h, rfl⟩
  exact ⟨_, hb, by rw [exec_ldVxMem, hb, Option.elim_some]⟩

/-- The registers through x hold the bytes of a checked read (R205). -/
theorem reg_setV_putRegs_of_le {k : Reg} {base : Nat} {bytes : List Byte}
    (hb : s.loadBytes base (x.val + 1) = some bytes) (hk : k.val ≤ x.val) :
    (s.setV (putRegs s.v 0 bytes)).reg k = s.readByte (base + k.val) := by
  rw [reg_setV_putRegs, State.getElem?_of_loadBytes hb k.val (Nat.lt_succ_of_le hk), Option.getD_some]

end

/-- Settles O34: the bytes of the checked store at `I` are the registers through x. -/
theorem storeRegisters : Obligations.StoreRegisters := by
  intro x s
  refine ⟨encodedAs_row (Laws.EncodesInRow.ldMemVx x), fun hm h => ?_⟩
  obtain ⟨u, hu, he⟩ := exec_ldMemVx_of_inMemory h
  obtain ⟨t, ht, hpc, hkeep, hin, hout⟩ := exists_next_of_storeBytes hm hu he
  rw [length_regsThrough] at hout
  refine ⟨t, ht, hpc, hkeep, fun k hk => ?_, hout⟩
  have hl : k.val < (s.regsThrough x).length := by
    rw [length_regsThrough]
    omega
  rw [hin k.val hl, getElem_regsThrough s hk]

/-- Settles O35: the registers through x get the bytes of the checked read at `I`, the frame is that of the register
block. -/
theorem loadRegisters : Obligations.LoadRegisters := by
  intro x s
  refine ⟨encodedAs_row (Laws.EncodesInRow.ldVxMem x), fun h => ?_⟩
  obtain ⟨bytes, hb, he⟩ := exec_ldVxMem_of_inMemory h
  have hkeep : Keeps [] (writtenRegs (.ldVxMem x)) s (s.setV (putRegs s.v 0 bytes)).advance :=
    ((Keeps.refl _ _ s).setV fun r => reg_setV_putRegs_of_gt (State.length_of_loadBytes hb)).advance
  refine ⟨_, he, rfl, fun k hk => reg_setV_putRegs_of_le hb hk, fun k hk => hkeep.registers k ?_, hkeep⟩
  simpa [writtenRegs] using hk

/-- Settles O36: the load reads, at the same `I`, the bytes the store left in memory. -/
theorem storeThenLoadRegisters : Obligations.StoreThenLoadRegisters := by
  intro x s hm h
  obtain ⟨t, ht, _, _, hstored, _⟩ := (storeRegisters x s).2 hm h
  refine ⟨t, ht, fun u hmem hi => ?_⟩
  obtain ⟨w, hw, _, hloaded, habove, _⟩ := (loadRegisters x u).2 (hi ▸ h)
  refine ⟨w, hw, fun k hk => ?_, habove⟩
  calc w.reg k = u.readByte (u.i.toNat + k.val) := hloaded k hk
    _ = t.readByte (s.i.toNat + k.val) := by rw [State.readByte, hmem, hi, State.readByte]
    _ = s.reg k := hstored k hk

/-- Settles O31: each of the two is a write of `I`, and the glyph address of any byte fits 16 bits. -/
theorem indexLoads : Obligations.IndexLoads := by
  refine ⟨fun nnn s => ⟨encodedAs_row (Laws.EncodesInRow.ldI nnn), exists_next_of_setI rfl⟩,
    fun x s => ⟨encodedAs_row (Laws.EncodesInRow.ldFVx x), ?_⟩⟩
  obtain ⟨t, ht, hi, hpc, hkeep⟩ := exists_next_of_setI (i := .ldFVx x) (s := s) rfl
  exact ⟨t, ht, by rw [hi, toNat_glyphAddress], hpc, hkeep⟩

/-- Settles O32: the sum is narrowed to 16 bits, and only `I` is written. -/
theorem indexAddWraps : Obligations.IndexAddWraps := by
  intro x s
  refine ⟨encodedAs_row (Laws.EncodesInRow.addIVx x), ?_⟩
  obtain ⟨t, ht, hi, hpc, hkeep⟩ := exists_next_of_setI (i := .addIVx x) (s := s) rfl
  exact ⟨t, ht, by rw [hi, toNat_indexPlus], hpc, hkeep⟩

/-- Settles O33: the bytes of the checked store at `I` are the three digits; a byte is below 1000, so its hundreds are
one digit already. -/
theorem bcdStoresDigits : Obligations.BcdStoresDigits := by
  intro x s
  refine ⟨encodedAs_row (Laws.EncodesInRow.ldBVx x), fun hm h => ?_⟩
  obtain ⟨u, hu, he⟩ := exec_ldBVx_of_inMemory (x := x) h
  obtain ⟨t, ht, hpc, hkeep, hin, hout⟩ := exists_next_of_storeBytes hm hu he
  have hdigit (k : Nat) (hk : k < 3) :
      (t.readByte (s.i.toNat + k)).toNat = (s.reg x).toNat / 10 ^ (2 - k) % 10 :=
    (congrArg BitVec.toNat (hin k hk)).trans (toNat_getElem_decimalDigits (s.reg x) k hk)
  refine ⟨t, ht, hpc, hkeep, ?_, hdigit 1 (by decide), ?_, hout⟩
  · have hb := (s.reg x).isLt
    have h0 := hdigit 0 (by decide)
    rw [Nat.add_zero] at h0
    omega
  · have h2 := hdigit 2 (by decide)
    rwa [Nat.pow_zero, Nat.div_one] at h2

end Sys2Proof.Machine

/-! ### Where the bits of a sprite byte land (R222, I3) -/

namespace Sys2Proof.Machine

/-- A byte moved to the left end of a row: its bit 7 - d stands at column d, the other columns are clear. -/
theorem getLsbD_leftByte (b : Byte) {d : Nat} (hd : d < 64) :
    (b.setWidth 64 <<< 56).getLsbD (63 - d) = (decide (d < 8) && b.getLsbD (7 - d)) := by
  rw [BitVec.getLsbD_shiftLeft, BitVec.getLsbD_setWidth]
  by_cases h : d < 8
  · have hbit : 63 - d - 56 = 7 - d := by omega
    have hhigh : ¬ 63 - d < 56 := by omega
    have hrow : 63 - d < 64 ∧ 7 - d < 64 := by omega
    simp [h, hbit, hhigh, hrow]
  · have hlow : 63 - d < 56 := by omega
    simp [h, hlow]

theorem getLsbD_spriteRow (b : Byte) (x0 : Nat) {c : Nat} (hc : c < 64) :
    (spriteRow b x0).getLsbD (63 - c) = (decide (x0 ≤ c ∧ c < x0 + 8) && b.getLsbD (7 - (c - x0))) := by
  rw [spriteRow, BitVec.getLsbD_ushiftRight]
  by_cases h : x0 ≤ c
  · have hbit : x0 + (63 - c) = 63 - (c - x0) := by omega
    have hcol : c - x0 < 8 ↔ x0 ≤ c ∧ c < x0 + 8 := by omega
    rw [hbit, getLsbD_leftByte b (by omega), decide_eq_decide.mpr hcol]
  · rw [BitVec.getLsbD_of_ge _ _ (by omega), decide_eq_false (by omega), Bool.false_and]

theorem getLsbD_rotatedByte (b : Byte) {x0 c : Nat} (hx : x0 < 64) (hc : c < 64) :
    ((b.setWidth 64 <<< 56).rotateRight x0).getLsbD (63 - c) =
      (decide ((c + 64 - x0) % 64 < 8) && b.getLsbD (7 - (c + 64 - x0) % 64)) := by
  rw [BitVec.getLsbD_rotateRight, Nat.mod_eq_of_lt hx, ← getLsbD_leftByte b (Nat.mod_lt _ (by decide))]
  by_cases h : x0 ≤ c
  · have hbit : x0 + (63 - c) = 63 - (c + 64 - x0) % 64 := by omega
    rw [decide_eq_true (by omega), cond_true, hbit]
  · have hbit : 63 - c - (64 - x0) = 63 - (c + 64 - x0) % 64 := by omega
    rw [decide_eq_false (by omega), cond_false, decide_eq_true (by omega), Bool.true_and, hbit]

/-- Up to column 56 the shift right takes back a part of the shift left and loses no bit. -/
theorem spriteRow_eq_shiftLeft (b : Byte) {x0 : Nat} (h : x0 ≤ 56) : spriteRow b x0 = b.setWidth 64 <<< (56 - x0) := by
  have hb := b.isLt
  have hfit : b.toNat * 2 ^ 56 < 2 ^ 64 := by omega
  have hsplit : b.toNat * 2 ^ 56 = b.toNat * 2 ^ (56 - x0) * 2 ^ x0 := by
    rw [Nat.mul_assoc, ← Nat.pow_add, Nat.sub_add_cancel h]
  have hle : b.toNat * 2 ^ (56 - x0) ≤ b.toNat * 2 ^ 56 := hsplit ▸ Nat.le_mul_of_pos_right _ (Nat.two_pow_pos x0)
  refine BitVec.eq_of_toNat_eq ?_
  rw [spriteRow, BitVec.toNat_ushiftRight, BitVec.toNat_shiftLeft, BitVec.toNat_shiftLeft,
    BitVec.toNat_setWidth_of_le (by decide), Nat.shiftLeft_eq, Nat.shiftLeft_eq, Nat.mod_eq_of_lt hfit,
    Nat.mod_eq_of_lt (Nat.lt_of_le_of_lt hle hfit), hsplit, Nat.shiftRight_eq_div_pow,
    Nat.mul_div_cancel _ (Nat.two_pow_pos x0)]

/-- Settles O43: the shift right moves the byte at the left end to column x0; up to column 56 nothing is lost. -/
theorem spriteRowPlacesBits : Obligations.SpriteRowPlacesBits :=
  fun b x0 _ => ⟨fun _ hc => getLsbD_spriteRow b x0 hc, spriteRow_eq_shiftLeft b⟩

end Sys2Proof.Machine

/-! ### The display row a draw composes (R221, R223, I3) -/

namespace Sys2Proof.Machine

/-- The sprite row that is drawn on display row k, if one is: the inverse of `displayRow`. -/
def sourceRow (p : EdgePolicy) (y0 k : Nat) : Option Nat :=
  match p with
  | .drop => if y0 ≤ k then some (k - y0) else none
  | .wrapRows => some ((k + 32 - y0) % 32)
  | .wrapBoth => some ((k + 32 - y0) % 32)

/-- What the first n sprite rows at `I` put on display row k: one of them in its place, or nothing. -/
def State.spriteLine (s : State) (x y : Reg) (n k : Nat) : Row :=
  match sourceRow s.edge (startRow (s.reg y)) k with
  | none => 0#64
  | some j => if j < n then alignedRow s.edge (s.readByte (s.base + j)) (startColumn (s.reg x)) else 0#64

theorem startRow_lt (b : Byte) : startRow b < 32 := Nat.mod_lt _ (by decide)

theorem startColumn_lt (b : Byte) : startColumn b < 64 := Nat.mod_lt _ (by decide)

/-- No two sprite rows are drawn on one display row, unless a sprite of more than 32 rows comes round. -/
theorem displayRow_eq_some_iff {p : EdgePolicy} {y0 j : Nat} {d : Fin 32} (hy : y0 < 32) (hj : p = .drop ∨ j < 32) :
    displayRow p y0 j = some d ↔ sourceRow p y0 d.val = some j := by
  have hd := d.isLt
  cases p with
  | drop =>
    rw [displayRow_drop, sourceRow]
    split
    case isTrue h => rw [Option.some.injEq]; omega
    case isFalse h => exact iff_of_false (by omega) nofun
  | wrapRows | wrapBoth =>
    have hj : j < 32 := hj.resolve_left EdgePolicy.noConfusion
    rw [displayRow, sourceRow, Option.some.injEq, Option.some.injEq, Fin.ext_iff, Fin.val_ofNat]
    omega

section
variable {s : State} {x y : Reg} {n : Nat} {d : Fin 32}

theorem State.spriteLine_of_sourceRow {j k : Nat} (h : sourceRow s.edge (startRow (s.reg y)) k = some j) :
    s.spriteLine x y n k =
      if j < n then alignedRow s.edge (s.readByte (s.base + j)) (startColumn (s.reg x)) else 0#64 := by
  rw [State.spriteLine, h]

theorem State.spriteLine_zero (k : Nat) : s.spriteLine x y 0 k = 0#64 := by
  unfold State.spriteLine
  split
  · rfl
  · exact if_neg (Nat.not_lt_zero _)

/-- Sprite row n changes the line of no display row but its own. -/
theorem State.spriteLine_succ_of_ne (hn : s.edge = .drop ∨ n < 32)
    (h : displayRow s.edge (startRow (s.reg y)) n ≠ some d) :
    s.spriteLine x y (n + 1) d.val = s.spriteLine x y n d.val := by
  unfold State.spriteLine
  split
  case h_1 => rfl
  case h_2 j hj =>
    have hne : j ≠ n := fun e => h ((displayRow_eq_some_iff (startRow_lt _) hn).mpr (e ▸ hj))
    exact if_congr (by omega) rfl rfl

/-- The line of the display row that sprite row n is drawn on is clear before it. -/
theorem State.spriteLine_of_displayRow (hn : s.edge = .drop ∨ n < 32)
    (h : displayRow s.edge (startRow (s.reg y)) n = some d) :
    s.spriteLine x y n d.val = 0#64 ∧
      s.spriteLine x y (n + 1) d.val = alignedRow s.edge (s.readByte (s.base + n)) (startColumn (s.reg x)) := by
  have hsrc := (displayRow_eq_some_iff (startRow_lt _) hn).mp h
  exact ⟨(State.spriteLine_of_sourceRow hsrc).trans (if_neg (Nat.lt_irrefl n)),
    (State.spriteLine_of_sourceRow hsrc).trans (if_pos (Nat.lt_succ_self n))⟩

end

/-- The canvas after the first n rows of the sprite at `I`: each display row is XORed with its line, the overlay holds
the pixels that were cleared, and a collision was seen exactly if there is one. -/
structure Canvas.Shows (s : State) (x y : Reg) (n : Nat) (c : Canvas) : Prop where
  fb : ∀ k : Fin 32, c.fb[k.val] = s.fb[k.val] ^^^ s.spriteLine x y n k.val
  fade : ∀ k : Fin 32, c.fade[k.val] = s.fb[k.val] &&& s.spriteLine x y n k.val
  collided : c.collided = true ↔ ∃ k : Fin 32, s.fb[k.val] &&& s.spriteLine x y n k.val ≠ 0#64

theorem collided_drawRow {p : EdgePolicy} {x0 y0 r : Nat} {d : Fin 32} (b : Byte) (c : Canvas)
    (h : displayRow p y0 r = some d) :
    (drawRow p x0 y0 r b c).collided = true ↔ c.collided = true ∨ c.fb[d.val] &&& alignedRow p b x0 ≠ 0#64 := by
  simp only [drawRow, h, blendRow, Bool.or_eq_true, bne_iff_ne]

section
variable {s : State} {x y : Reg} {n : Nat} {c : Canvas}

theorem State.canvas_shows : s.canvas.Shows s x y 0 where
  fb k := by rw [State.spriteLine_zero, BitVec.xor_zero, State.canvas]
  fade k := by rw [State.spriteLine_zero, BitVec.and_zero, State.canvas, Vector.getElem_replicate]
  collided := by simp [State.spriteLine_zero, State.canvas]

/-- One more row of the sprite. -/
theorem Canvas.Shows.drawRow (h : c.Shows s x y n) (hn : s.edge = .drop ∨ n < 32) :
    (drawRow s.edge (startColumn (s.reg x)) (startRow (s.reg y)) n (s.readByte (s.base + n)) c).Shows
      s x y (n + 1) := by
  cases hd : displayRow s.edge (startRow (s.reg y)) n with
  | none =>
    have hline (k : Fin 32) : s.spriteLine x y (n + 1) k.val = s.spriteLine x y n k.val :=
      State.spriteLine_succ_of_ne hn (hd ▸ nofun)
    rw [drawRow_of_dropped _ _ hd]
    constructor
    · simpa only [hline] using h.fb
    · simpa only [hline] using h.fade
    · simpa only [hline] using h.collided
  | some d =>
    obtain ⟨hclear, hline⟩ := State.spriteLine_of_displayRow (x := x) hn hd
    have hother (k : Fin 32) (hk : k ≠ d) : s.spriteLine x y (n + 1) k.val = s.spriteLine x y n k.val :=
      State.spriteLine_succ_of_ne hn (by rw [hd]; exact fun e => hk (Option.some.inj e).symm)
    have hfb : c.fb[d.val] = s.fb[d.val] := by rw [h.fb d, hclear, BitVec.xor_zero]
    refine ⟨fun k => ?_, fun k => ?_, ?_⟩
    · rw [fb_drawRow _ _ hd k.val k.isLt]
      split
      case isTrue hk =>
        obtain rfl := Fin.ext hk
        rw [hfb, hline]
      case isFalse hk => rw [h.fb k, hother k (fun e => hk (congrArg Fin.val e))]
    · rw [fade_drawRow _ _ hd k.val k.isLt]
      split
      case isTrue hk =>
        obtain rfl := Fin.ext hk
        rw [hfb, hline]
      case isFalse hk => rw [h.fade k, hother k (fun e => hk (congrArg Fin.val e))]
    · rw [collided_drawRow _ _ hd, h.collided, hfb, ← hline]
      constructor
      · rintro (⟨k, hk⟩ | hk)
        · have hkd : k ≠ d := fun e => hk (by rw [e, hclear, BitVec.and_zero])
          exact ⟨k, by rwa [hother k hkd]⟩
        · exact ⟨d, hk⟩
      · rintro ⟨k, hk⟩
        by_cases hkd : k = d
        · exact .inr (hkd ▸ hk)
        · exact .inl ⟨k, by rwa [← hother k hkd]⟩

/-- The row loop over the bytes from `I` + n up. -/
theorem Canvas.Shows.drawRows (m : Nat) (h : c.Shows s x y n) (hm : s.edge = .drop ∨ n + m ≤ 32) :
    (drawRows s.edge (startColumn (s.reg x)) (startRow (s.reg y)) n (s.mem.getRange (s.base + n) m) c).Shows
      s x y (n + m) := by
  induction m generalizing n c with
  | zero => exact h
  | succ m ih =>
    have hrest := ih (h.drawRow (hm.imp_right fun _ => by omega)) (hm.imp_right fun _ => by omega)
    rwa [Nat.add_right_comm n 1 m, Nat.add_assoc] at hrest

theorem State.drawSprite_shows {sprite : List Byte} (hb : s.loadBytes s.base n = some sprite)
    (hn : s.edge = .drop ∨ n ≤ 32) : (s.drawSprite x y sprite).Shows s x y n := by
  obtain ⟨_, rfl⟩ := State.loadBytes_eq_some.mp hb
  have h := State.canvas_shows.drawRows (x := x) (y := y) n (hn.imp_right fun _ => by omega)
  rwa [Nat.zero_add] at h

end

end Sys2Proof.Machine

/-! ### DRW pixel by pixel (R221 to R226) -/

namespace Sys2Proof.Machine

/-- The pixel at column c and row r of what the first n sprite rows at `I` put on the screen. -/
def State.linePixel (s : State) (x y : Reg) (n c r : Nat) : Bool := (s.spriteLine x y n r).getLsbD (63 - c)

theorem State.pixel_eq_getLsbD (s : State) (c : Nat) {r : Nat} (hr : r < 32) :
    s.pixel c r = s.fb[r].getLsbD (63 - c) := by
  rw [State.pixel, Vector.getElem?_eq_getElem hr, Option.getD_some]

theorem State.fadePixel_eq_getLsbD (s : State) (c : Nat) {r : Nat} (hr : r < 32) :
    s.fadePixel c r = s.fade[r].getLsbD (63 - c) := by
  rw [State.fadePixel, Vector.getElem?_eq_getElem hr, Option.getD_some]

/-- Two rows of the screen are equal when their 64 pixels are. -/
theorem row_eq_of_columns {a b : Row} (h : ∀ c < 64, a.getLsbD (63 - c) = b.getLsbD (63 - c)) : a = b := by
  refine BitVec.eq_of_getLsbD_eq fun i hi => ?_
  have hc := h (63 - i) (by omega)
  rwa [Nat.sub_sub_self (by omega)] at hc

theorem fb_eq_of_pixels {s t : State} (h : ∀ c r : Nat, c < 64 → r < 32 → t.pixel c r = s.pixel c r) : t.fb = s.fb := by
  refine Vector.ext fun r hr => row_eq_of_columns fun c hc => ?_
  rw [← State.pixel_eq_getLsbD t c hr, ← State.pixel_eq_getLsbD s c hr, h c r hc hr]

theorem row_ne_zero_iff {a : Row} : a ≠ 0#64 ↔ ∃ c < 64, a.getLsbD (63 - c) = true := by
  constructor
  · intro h
    by_contra! hz
    exact h (row_eq_of_columns fun c hc => by rw [BitVec.getLsbD_zero]; exact Bool.eq_false_iff.mpr (hz c hc))
  · rintro ⟨c, _, hc⟩ rfl
    cases BitVec.getLsbD_zero.symm.trans hc

section
variable {s : State} {x y : Reg} {n : Nat}

theorem State.drawn_keeps (sprite : List Byte) :
    Keeps [.frameBuffer, .fading, .displayChanged] [15] s (s.drawn x y sprite) :=
  (((((Keeps.refl _ _ s).setFb (by decide) _).setFade (by decide) _).setReg (List.mem_singleton_self _) _).setDc
    (by decide) _).advance

theorem exec_drw_of_inMemory (h : InMemory s.i.toNat n) :
    ∃ sprite, s.loadBytes s.base n = some sprite ∧ exec (.drw x y n) s = .next (s.drawn x y sprite) := by
  have hb : s.loadBytes s.base n = some (s.mem.getRange s.base n) := State.loadBytes_eq_some.mpr ⟨h, rfl⟩
  exact ⟨_, hb, by rw [exec_drw, hb, Option.elim_some]⟩

/-- A collision is one pixel set both on the screen and in the sprite. -/
theorem Canvas.Shows.collided_iff {a : Canvas} (h : a.Shows s x y n) :
    a.collided = true ↔ ∃ c r : Nat, c < 64 ∧ r < 32 ∧ (s.pixel c r && s.linePixel x y n c r) = true := by
  simp only [h.collided, row_ne_zero_iff, BitVec.getLsbD_and]
  constructor
  · rintro ⟨k, c, hc, hp⟩
    exact ⟨c, k.val, hc, k.isLt, by rwa [State.pixel_eq_getLsbD s c k.isLt]⟩
  · rintro ⟨c, r, hc, hr, hp⟩
    exact ⟨⟨r, hr⟩, c, hc, by rwa [State.pixel_eq_getLsbD s c hr] at hp⟩

/-- A completed draw of a sprite whose pixels on the screen are those of `shape` (R221 to R226). -/
theorem exists_next_of_drw {shape : Nat → Nat → Bool} (hmem : InMemory s.i.toNat n) (hn : s.edge = .drop ∨ n ≤ 32)
    (hshape : ∀ c r : Nat, c < 64 → r < 32 → s.linePixel x y n c r = shape c r) :
    ∃ t, exec (.drw x y n) s = .next t ∧ t.pc = s.pc + 2#16 ∧ t.dc = true ∧
      Keeps [.frameBuffer, .fading, .displayChanged] [15] s t ∧
      (∀ c r : Nat, c < 64 → r < 32 →
        t.pixel c r = (s.pixel c r ^^ shape c r) ∧ t.fadePixel c r = (s.pixel c r && shape c r)) ∧
      ((∃ c r : Nat, c < 64 ∧ r < 32 ∧ (s.pixel c r && shape c r) = true) → t.reg 15 = 1#8) ∧
      ((∀ c r : Nat, c < 64 → r < 32 → (s.pixel c r && shape c r) = false) → t.reg 15 = 0#8) := by
  obtain ⟨sprite, hb, hexec⟩ := exec_drw_of_inMemory (x := x) (y := y) hmem
  have hshows := State.drawSprite_shows (x := x) (y := y) hb hn
  have hflag : (s.drawn x y sprite).reg 15 = flagByte (s.drawSprite x y sprite).collided := State.reg_setReg_self _ vF _
  refine ⟨_, hexec, rfl, rfl, State.drawn_keeps sprite, fun c r hc hr => ?_, fun hhit => ?_, fun hmiss => ?_⟩
  · have hfb : (s.drawn x y sprite).fb[r] = _ := hshows.fb ⟨r, hr⟩
    have hfade : (s.drawn x y sprite).fade[r] = _ := hshows.fade ⟨r, hr⟩
    rw [← hshape c r hc hr, State.linePixel, State.pixel_eq_getLsbD _ c hr, State.pixel_eq_getLsbD s c hr,
      State.fadePixel_eq_getLsbD _ c hr, hfb, hfade, BitVec.getLsbD_xor, BitVec.getLsbD_and]
    exact ⟨rfl, rfl⟩
  · obtain ⟨c, r, hc, hr, hp⟩ := hhit
    rw [hflag, hshows.collided_iff.mpr ⟨c, r, hc, hr, by rwa [hshape c r hc hr]⟩]
    rfl
  · have hcol : (s.drawSprite x y sprite).collided = false := Bool.eq_false_iff.mpr fun hcol => by
      obtain ⟨c, r, hc, hr, hp⟩ := hshows.collided_iff.mp hcol
      rw [hshape c r hc hr, hmiss c r hc hr] at hp
      cases hp
    rw [hflag, hcol]
    rfl

theorem State.linePixel_of_sourceRow {j c r : Nat} (h : sourceRow s.edge (startRow (s.reg y)) r = some j) :
    s.linePixel x y n c r =
      (decide (j < n) && (alignedRow s.edge (s.readByte (s.base + j)) (startColumn (s.reg x))).getLsbD (63 - c)) := by
  rw [State.linePixel, State.spriteLine_of_sourceRow h]
  split
  case isTrue hj => rw [decide_eq_true hj, Bool.true_and]
  case isFalse hj => rw [decide_eq_false hj, Bool.false_and, BitVec.getLsbD_zero]

theorem linePixel_eq_spritePixel (hs : s.edge = .drop) {c r : Nat} (hc : c < 64) :
    s.linePixel x y n c r = spritePixel s x y n c r := by
  rw [spritePixel]
  by_cases h : startRow (s.reg y) ≤ r
  · have hsrc : sourceRow s.edge (startRow (s.reg y)) r = some (r - startRow (s.reg y)) := by
      rw [hs, sourceRow, if_pos h]
    have hin : r - startRow (s.reg y) < n ∧ startColumn (s.reg x) ≤ c ∧ c < startColumn (s.reg x) + 8 ↔
        startRow (s.reg y) ≤ r ∧ r < startRow (s.reg y) + n ∧ startColumn (s.reg x) ≤ c ∧
          c < startColumn (s.reg x) + 8 := by omega
    rw [State.linePixel_of_sourceRow hsrc, hs, alignedRow, getLsbD_spriteRow _ _ hc, ← Bool.and_assoc,
      ← Bool.decide_and]
    exact congrArg (· && _) (decide_eq_decide.mpr hin)
  · have hsrc : sourceRow s.edge (startRow (s.reg y)) r = none := by rw [hs, sourceRow, if_neg h]
    rw [State.linePixel, State.spriteLine, hsrc, BitVec.getLsbD_zero, decide_eq_false fun hin => h hin.1,
      Bool.false_and]

theorem linePixel_eq_spritePixelWrapped {columns : Bool} (hs : s.edge = if columns then .wrapBoth else .wrapRows)
    {c r : Nat} (hc : c < 64) : s.linePixel x y n c r = spritePixelWrapped columns s x y n c r := by
  have hsrc : sourceRow s.edge (startRow (s.reg y)) r = some ((r + 32 - startRow (s.reg y)) % 32) := by
    rw [hs]
    cases columns <;> rfl
  rw [State.linePixel_of_sourceRow hsrc, spritePixelWrapped, Bool.decide_and, Bool.and_assoc]
  congr 1
  cases columns with
  | true =>
    have hcol : (c + 64 - startColumn (s.reg x)) % 64 < 8 ↔
        (true = true ∨ startColumn (s.reg x) ≤ c) ∧ (c + 64 - startColumn (s.reg x)) % 64 < 8 :=
      (and_iff_right (.inl rfl)).symm
    rw [hs, if_pos rfl, alignedRow, getLsbD_rotatedByte _ (startColumn_lt _) hc]
    exact congrArg (· && _) (decide_eq_decide.mpr hcol)
  | false =>
    have hcol : startColumn (s.reg x) ≤ c ∧ c < startColumn (s.reg x) + 8 ↔
        (false = true ∨ startColumn (s.reg x) ≤ c) ∧ c - startColumn (s.reg x) < 8 := by
      rw [or_iff_right Bool.false_ne_true]
      omega
    rw [hs, if_neg Bool.false_ne_true, alignedRow, getLsbD_spriteRow _ _ hc]
    exact congrArg (· && _) (decide_eq_decide.mpr hcol)

end

/-- Settles O41: the line of each display row is the sprite's pixels of that row. -/
theorem drawPixels : Obligations.DrawPixels :=
  fun x y n _ => ⟨encodedAs_row (Laws.EncodesInRow.drw x y n),
    fun hs hmem => exists_next_of_drw hmem (.inl hs) fun _ _ hc _ => linePixel_eq_spritePixel hs hc⟩

/-- Settles O42: at most 15 sprite rows come round, so no two of them meet on one display row. -/
theorem drawPixelsWrapping : Obligations.DrawPixelsWrapping :=
  fun _ _ _ _ _ hn hs hmem => exists_next_of_drw hmem (.inr (by omega))
    fun _ _ hc _ => linePixel_eq_spritePixelWrapped hs hc

/-- A draw reads of the state only memory, `I`, the edge policy and its two registers. -/
theorem Keeps.linePixel {P : List Part} {R : List Reg} {s t : State} {x y : Reg} (h : Keeps P R s t)
    (hm : .memory ∉ P) (hi : .index ∉ P) (hx : x ∉ R) (hy : y ∉ R) (n c r : Nat) :
    t.linePixel x y n c r = s.linePixel x y n c r := by
  simp only [State.linePixel, State.spriteLine, State.base, h.edge, h.index hi, h.memory hm, h.registers x hx,
    h.registers y hy]

/-- Settles O44: the second draw XORs the same pixels again, and those of them that it finds set are the ones the first
draw set. -/
theorem drawTwiceRestores : Obligations.DrawTwiceRestores := by
  intro x y n s hx hy hn hmem
  have hle {p : EdgePolicy} : p = .drop ∨ n ≤ 32 := .inr (by omega)
  obtain ⟨t, ht, _, _, hk, hpt, _⟩ := exists_next_of_drw (x := x) (y := y) hmem hle fun _ _ _ _ => rfl
  have hmem' : InMemory t.i.toNat n := hk.index (by decide) ▸ hmem
  have hline := hk.linePixel (x := x) (y := y) (by decide) (by decide) (by simpa using hx) (by simpa using hy) n
  obtain ⟨u, hu, _, _, _, hpu, hhit, hmiss⟩ := exists_next_of_drw hmem' hle fun c r _ _ => hline c r
  refine ⟨t, u, ht, hu, fb_eq_of_pixels fun c r hc hr => ?_, ?_⟩
  · rw [(hpu c r hc hr).1, (hpt c r hc hr).1, Bool.xor_assoc, Bool.xor_self, Bool.xor_false]
  · have hset (c r : Nat) (hc : c < 64) (hr : r < 32) : (t.pixel c r && s.linePixel x y n c r) = true ↔
        t.pixel c r = true ∧ s.pixel c r = false := by
      rw [(hpt c r hc hr).1]
      cases s.pixel c r <;> cases s.linePixel x y n c r <;> decide
    refine ⟨fun hF => ?_, fun ⟨c, r, hc, hr, hp⟩ => hhit ⟨c, r, hc, hr, (hset c r hc hr).mpr hp⟩⟩
    by_contra! hnone
    have h0 : u.reg 15 = 0#8 := hmiss fun c r hc hr => Bool.eq_false_iff.mpr fun hp => by
      obtain ⟨hafter, hbefore⟩ := (hset c r hc hr).mp hp
      exact hnone c r hc hr hafter hbefore
    exact absurd (hF.symm.trans h0) (by decide)

/-- Refutes O45: the screen holds exactly the sprite, the row 0xF0 of the font's first glyph; the first draw clears it
and the second sets it again without a collision. -/
theorem not_secondDrawAlwaysCollides : ¬ Obligations.SecondDrawAlwaysCollides := by
  intro h
  have hcollides := h 0 1 1
    ((State.reset.setFb (State.reset.fb.set 0 0xF000000000000000#64)).setI 0x050#16) _ _ rfl (by decide) (by decide)
    (.inr (by decide)) rfl rfl ⟨0, 0, by decide, by decide, by decide⟩
  exact absurd hcollides (by decide)

end Sys2Proof.Machine

/-! ### CLS and `DC` (R220, R225) -/

namespace Sys2Proof.Machine

/-- No execute stage clears `DC`: CLS and DRW set it, the others keep it. -/
theorem exec_dc {i : Instr} {s t : State} (h : exec i s = .next t) (hdc : s.dc = true) : t.dc = true := by
  have hk := exec_keeps h
  cases i with
  | cls =>
    obtain rfl := Host.Outcome.next.inj h
    rfl
  | drw x y n =>
    obtain rfl | ⟨_, _, rfl⟩ := exec_drw_cases h
    · exact hdc
    · rfl
  | _ => exact (hk.displayChanged (by simp [writtenParts])).trans hdc

/-- Settles O40: an error writes only `RS`, the timers and a key event write no part of the display. -/
theorem drawSetsDisplayChanged : Obligations.DrawSetsDisplayChanged := by
  refine ⟨fun x y n s hmem => ?_, fun i s t => exec_dc, fun s t h hdc => ?_, fun s k => ⟨rfl, ?_⟩⟩
  · obtain ⟨sprite, _, hexec⟩ := exec_drw_of_inMemory hmem
    exact ⟨_, hexec, rfl⟩
  · obtain ⟨_, _, rfl⟩ | ⟨_, _, rfl⟩ | ⟨_, _, _, _, _, rfl⟩ | ⟨_, _, i, _, _, hexec⟩ := cpuStep_cases h
    · exact hdc
    · exact hdc
    · exact hdc
    · exact exec_dc hexec hdc
  · unfold State.keyPress
    cases s.rs <;> rfl

/-- Settles O39: the rows are clear, and the frame is that of the two writers. -/
theorem clearScreen : Obligations.ClearScreen := by
  refine ⟨encodedAs_row Laws.EncodesInRow.cls, fun s => ⟨_, rfl, fun c r => ?_, rfl, rfl, exec_keeps (i := .cls) rfl⟩⟩
  show ((Vector.replicate 32 0#64)[r]?.getD 0).getLsbD (63 - c) = false
  rw [Vector.getElem?_replicate]
  split <;> exact BitVec.getLsbD_zero

end Sys2Proof.Machine

/-! ### Timer access and key input (R240 to R246) -/

namespace Sys2Proof.Machine

/-- A timer has run out once it has had as many ticks as it held (R271). -/
theorem tickTimerBy_eq_zero_iff (n : Nat) (t : Byte) : tickTimerBy n t = 0#8 ↔ t.toNat ≤ n := by
  rw [← BitVec.toNat_inj, toNat_tickTimerBy]
  exact Nat.sub_eq_zero_iff_le

theorem State.dt_iterate_tick (n : Nat) (s : State) : (State.tick^[n] s).dt = tickTimerBy n s.dt := by
  rw [← State.ticks_eq_iterate_tick]
  rfl

theorem State.isBeeping_iff (s : State) : s.isBeeping = true ↔ s.st.toNat > 0 := decide_eq_true_iff

/-- A key number fits a register, so none of it is lost (R246). -/
theorem toNat_keyByte (k : Key) : (keyByte k).toNat = k.val := by
  have hk := k.isLt
  rw [keyByte, BitVec.toNat_ofNat, Nat.mod_eq_of_lt (by omega)]

section
variable {s : State} {x : Reg}

/-- What a key event that completes a wait does (R246). -/
theorem State.keyPress_completes (h : s.rs = .awaitingKey x) (k : Key) :
    ((s.keyPress k).reg x).toNat = k.val ∧ (s.keyPress k).pc = s.pc + 2#16 ∧ (s.keyPress k).rs = .running ∧
      Keeps [.runState] [x] s (s.keyPress k) := by
  rw [State.keyPress_of_awaiting h]
  refine ⟨?_, rfl, rfl, ?_⟩
  · rw [State.setRs_reg, State.advance_reg, State.reg_setReg_self, toNat_keyByte]
  · exact ((Keeps.refl _ _ s).setReg (List.mem_singleton_self x) _).advance.setRs (List.mem_singleton_self _) _

theorem State.keyPress_of_not_awaiting (h : ∀ x, s.rs ≠ .awaitingKey x) (k : Key) : s.keyPress k = s := by
  cases hr : s.rs with
  | awaitingKey x => exact absurd hr (h x)
  | running => simp only [State.keyPress, hr]
  | faulted e => exact State.keyPress_of_faulted hr k

theorem step_of_keyEvent {k : Key} (h : s.rs = .awaitingKey x) (hk : Config.keyEvent s.draws = some k) :
    step s = .next (s.keyPress k).environment := by
  simp only [step, cpuTurn, h, hk, onNext]

/-- A key query that skips on a condition spends one free value, moves `PC` by 4 or by 2 and keeps all else (R138). -/
theorem exists_next_of_keyQuery {i : Instr} {c : Bool} (h : exec i s = .next (s.spendDraw.skipIf c)) :
    ∃ t, exec i s = .next t ∧ Keeps [.draws] [] s t ∧ t.draws = s.draws + 1 ∧
      t.pc = if c then s.pc + 4#16 else s.pc + 2#16 :=
  ⟨_, h, ((Keeps.refl _ _ s).spendDraw (List.mem_singleton_self _)).skipIf c, rfl, rfl⟩

end

/-- Settles O48: n ticks take n from `DT`, floored at 0. -/
theorem delayTimerRunsDown : Obligations.DelayTimerRunsDown := by
  intro x s
  refine ⟨encodedAs_row (Laws.EncodesInRow.ldDtVx x), _, rfl, rfl, rfl, exec_keeps (i := .ldDtVx x) rfl, fun n => ?_⟩
  rw [State.dt_iterate_tick]
  exact tickTimerBy_eq_zero_iff n (s.reg x)

/-- Settles O13: the run state alone decides whether a key event completes a wait. -/
theorem keyEventCompletesWait : Obligations.KeyEventCompletesWait := by
  refine fun s k => ⟨fun x h => ?_, fun h => State.keyPress_of_not_awaiting h k⟩
  obtain ⟨hx, hpc, hrs, hkeep⟩ := State.keyPress_completes h k
  exact ⟨hx, hpc, hrs, hkeep, step_of_keyEvent h⟩

/-- Settles O47: the one is a write of `V[x]`, the other of `ST`, from which the beep signal is read. -/
theorem timerReadAndSound : Obligations.TimerReadAndSound := fun x _ =>
  ⟨encodedAs_row (Laws.EncodesInRow.ldVxDt x), encodedAs_row (Laws.EncodesInRow.ldStVx x), exists_next_of_setReg rfl,
    _, rfl, rfl, State.isBeeping_iff _, rfl, exec_keeps (i := .ldStVx x) rfl⟩

/-- Settles O49: the two queries skip on the same answer, SKNP on its negation. -/
theorem keySkips : Obligations.KeySkips := by
  refine fun x k s => ⟨encodedAs_row (Laws.EncodesInRow.skp x), encodedAs_row (Laws.EncodesInRow.sknp x), fun hx => ?_⟩
  have hk : keyNumber (s.reg x) = some k := keyNumber_eq_some.mpr hx
  refine ⟨exists_next_of_keyQuery (exec_skp_of_keyNumber hk), ?_⟩
  obtain ⟨t, ht, hkeep, hdraws, hpc⟩ := exists_next_of_keyQuery (exec_sknp_of_keyNumber hk)
  refine ⟨t, ht, hkeep, hdraws, ?_⟩
  rw [hpc]
  cases Config.keyPressed s.draws k <;> rfl

/-- Settles O50: the entered state awaits a key, so what holds of every wait and of its completion holds of it. -/
theorem keyWaitEntered : Obligations.KeyWaitEntered := by
  intro x s
  have hwait : (s.setRs (.awaitingKey x)).rs = .awaitingKey x := rfl
  obtain ⟨hstep, hresult, htick, _, hdt, hst, _⟩ := waitingStepChangesNothing _ x hwait
  refine ⟨encodedAs_row (Laws.EncodesInRow.ldVxK x), _, rfl, hwait, rfl, hresult, exec_keeps (i := .ldVxK x) rfl, hstep,
    htick, hdt, hst, fun k => ?_⟩
  obtain ⟨hx, hpc, hrs, _⟩ := State.keyPress_completes hwait k
  exact ⟨hx, hpc, hrs⟩

end Sys2Proof.Machine

/-! ### What raises an error, and what raises none (R260 to R264, R271) -/

namespace Sys2Proof.Machine

/-- The frame of a tick: the two timers only, whatever the run state (R271). -/
theorem State.tick_keeps (s : State) : Keeps [.delay, .sound] [] s s.tick :=
  ((Keeps.refl _ _ s).setDt (by decide) _).setSt (by decide) _

/-- Settles O9: each timer loses one, floored at 0, and nothing else is written. -/
theorem tickDecrementsTimers : Obligations.TickDecrementsTimers := fun s =>
  ⟨toNat_tickTimer s.dt, toNat_tickTimer s.st, s.tick_keeps, rfl, fun n => s.ticks_eq_iterate_tick n⟩

section
variable {s : State} {x y : Reg} {n : Nat}

/-- A rejected word ends the step with the error and no other write (R139, R261). -/
theorem cpuStep_of_decode_error {w : Word} {e : Reject} (hr : s.rs = .running) (hf : s.fetch = some w)
    (hd : decode w = .error e) : cpuStep s = .next (s.setRs (.faulted .unrecognizedOpcode)) := by
  simp only [cpuStep, hr, hf, runWord, hd, raise]

theorem exec_ret_of_empty (h : s.sp.val = 0) : exec .ret s = .next (s.setRs (.faulted .stackUnderflow)) := by
  rw [exec_ret, State.pop_eq_none.mpr h]
  rfl

theorem exec_drw_of_outOfRange (hn : n ≠ 0) (h : Config.memSize < s.base + n) :
    exec (.drw x y n) s = .next (s.setRs (.faulted .outOfBoundsMemoryAccess)) := by
  rw [exec_drw, State.loadBytes_eq_none.mpr ⟨hn, h⟩]
  rfl

theorem exec_ldBVx_of_outOfRange (h : Config.memSize < s.base + 3) :
    exec (.ldBVx x) s = .next (s.setRs (.faulted .outOfBoundsMemoryAccess)) := by
  have hb : s.storeBytes s.base (decimalDigits (s.reg x)) = none :=
    State.storeBytes_eq_none.mpr ⟨Nat.succ_ne_zero _, h⟩
  rw [exec_ldBVx, hb]
  rfl

theorem exec_ldMemVx_of_outOfRange (h : Config.memSize < s.base + (x.val + 1)) :
    exec (.ldMemVx x) s = .next (s.setRs (.faulted .outOfBoundsMemoryAccess)) := by
  have hb : s.storeBytes s.base (s.regsThrough x) = none := by
    rw [State.storeBytes_eq_none, length_regsThrough]
    exact ⟨Nat.succ_ne_zero _, h⟩
  rw [exec_ldMemVx, hb]
  rfl

theorem exec_ldVxMem_of_outOfRange (h : Config.memSize < s.base + (x.val + 1)) :
    exec (.ldVxMem x) s = .next (s.setRs (.faulted .outOfBoundsMemoryAccess)) := by
  rw [exec_ldVxMem, State.loadBytes_eq_none.mpr ⟨Nat.succ_ne_zero _, h⟩]
  rfl

theorem exists_next_ret_rs_eq (h : s.sp.val ≠ 0) : ∃ t, exec .ret s = .next t ∧ t.rs = s.rs :=
  ⟨_, exec_ret_of_pop (State.pop_eq_some.mpr ⟨h, rfl, rfl⟩), rfl⟩

/-- A register value below 16 names a key, and the query about it is answered (R243, R244). -/
theorem exists_next_keyQuery_rs_eq {i : Instr} (hi : i = .skp x ∨ i = .sknp x) (hx : (s.reg x).toNat < 16) :
    ∃ t, exec i s = .next t ∧ t.rs = s.rs := by
  have hk : keyNumber (s.reg x) = some ⟨(s.reg x).toNat, hx⟩ := keyNumber_eq_some.mpr rfl
  obtain rfl | rfl := hi
  · exact ⟨_, exec_skp_of_keyNumber hk, rfl⟩
  · exact ⟨_, exec_sknp_of_keyNumber hk, rfl⟩

end

/-- Settles O37: each access fails the range check of its own bytes, and an instruction that only computes `PC` or `I`
makes no such check. -/
theorem outOfRangeAccessRaises : Obligations.OutOfRangeAccessRaises := by
  refine ⟨fun s hr h => cpuStep_of_fetch_eq_none hr (State.fetch_eq_none.mpr h),
    fun x y n s hn h => exec_drw_of_outOfRange hn ?_,
    fun x s h => exec_ldBVx_of_outOfRange (Nat.lt_succ_of_le h),
    fun x s h => ⟨exec_ldMemVx_of_outOfRange (Nat.lt_succ_of_le h), exec_ldVxMem_of_outOfRange (Nat.lt_succ_of_le h)⟩,
    ?_⟩
  · show 4096 < s.i.toNat + n
    omega
  · rintro i s (⟨nnn, rfl⟩ | ⟨x, rfl⟩ | ⟨x, kk, rfl | rfl⟩ | ⟨x, y, rfl | rfl⟩ | ⟨rfl, hsp⟩ | ⟨x, hi, hx⟩)
    iterate 6 · exact ⟨_, rfl, rfl⟩
    · exact exists_next_ret_rs_eq hsp
    · exact exists_next_keyQuery_rs_eq hi hx

/-- Settles O16: a word that decodes to no instruction is rejected, and the decode stage takes the error. -/
theorem illegalWordRaises : Obligations.IllegalWordRaises := by
  intro s w hr hf hw
  cases hd : decode w with
  | ok i => exact absurd hd (hw i)
  | error e => exact cpuStep_of_decode_error hr hf hd

/-- Settles O22: an empty stack has no entry to pop. -/
theorem returnOnEmptyStackRaises : Obligations.ReturnOnEmptyStackRaises := fun _ => exec_ret_of_empty

end Sys2Proof.Machine

/-! ### Construction, `load_rom` and the idle loop (R290 to R294, R301) -/

namespace Sys2Proof.Machine

/-- An address outside the font area that memory does not list holds 0 (R71). -/
theorem unlistedByte_outside_font {a : Nat} (h : a < 0x050 ∨ 0x0A0 ≤ a) : unlistedByte a = 0#8 := by
  have hn : ¬ (Config.fontBase ≤ a ∧ a < Config.fontBase + Config.fontSize) := by
    simp only [Config.fontBase, Config.fontSize]
    omega
  exact if_neg hn

/-- An address of the font area that memory does not list holds its byte of the default font (R73). -/
theorem unlistedByte_font {k : Nat} (h : k < defaultFont.length) :
    unlistedByte (Config.fontBase + k) = defaultFont[k] := by
  have hk : k < Config.fontSize := h
  rw [unlistedByte, if_pos ⟨by omega, by omega⟩, Nat.add_sub_cancel_left, List.getD_eq_getElem _ _ h]

section
variable (font : Vector Byte 80)

/-- The font fits the memory. -/
theorem fontBase_add_length_le : Config.fontBase + font.toList.length ≤ Config.memSize := by
  rw [Vector.length_toList]
  decide

theorem State.construct_mem_wf : (State.construct font).mem.wf :=
  Memory.wf_putRange Memory.wf_nil (.inr (fontBase_add_length_le font))

theorem State.construct_readByte_font {k : Nat} (h : k < 80) :
    (State.construct font).readByte (0x050 + k) = font[k] := by
  have hk : k < font.toList.length := by rwa [Vector.length_toList]
  exact (Memory.get_putRange_inside Memory.wf_nil (fontBase_add_length_le font) k hk).trans (Vector.getElem_toList hk)

theorem State.construct_readByte_outside {a : Nat} (h : a < 0x050 ∨ 0x0A0 ≤ a) :
    (State.construct font).readByte a = 0#8 := by
  have ha : a < Config.fontBase ∨ Config.fontBase + font.toList.length ≤ a := by rwa [Vector.length_toList]
  exact (Memory.get_putRange_outside [] _ _ ha).trans (unlistedByte_outside_font h)

end

theorem State.reset_reg (r : Reg) : State.reset.reg r = 0#8 := Vector.getElem_replicate _

theorem State.reset_stack {k : Nat} (h : k < 16) : State.reset.stack[k]? = some 0#16 :=
  Vector.getElem?_replicate_of_lt h

/-- No pixel of a blank row is set, on the screen or beyond it. -/
theorem getLsbD_blankRow (c r : Nat) :
    (((Vector.replicate 32 (0 : Row))[r]?).getD 0).getLsbD (63 - c) = false := by
  rw [Vector.getElem?_replicate]
  split <;> exact BitVec.getLsbD_zero

theorem State.reset_pixel (c r : Nat) : State.reset.pixel c r = false ∧ State.reset.fadePixel c r = false :=
  ⟨getLsbD_blankRow c r, getLsbD_blankRow c r⟩

/-- `load_rom` answers exactly a ROM that fits: it writes the ROM and `PC`, nothing else (R291, R292). -/
theorem State.loadRom_eq_some {s t : State} {rom : List Byte} :
    s.loadRom rom = some t ↔
      rom.length ≤ 3584 ∧ t = (s.setMem (s.mem.putRange Config.entryPoint rom)).setPc 0x200#16 := by
  rw [State.loadRom, Option.ite_none_right_eq_some, Option.some.injEq, eq_comm (a := t)]
  rfl

theorem State.loadRom_eq_none {s : State} {rom : List Byte} (h : 3584 < rom.length) : s.loadRom rom = none :=
  if_neg (Nat.not_le_of_gt h)

/-- A ROM that fits ends within memory. -/
theorem entryPoint_add_length_le {rom : List Byte} (h : rom.length ≤ 3584) :
    Config.entryPoint + rom.length ≤ Config.memSize := by
  simp only [Config.entryPoint, Config.memSize]
  omega

/-- The reset memory lists nothing, so the default font written over it leaves it so. -/
theorem putRange_defaultFont : Memory.putRange [] Config.fontBase defaultFont = [] := by
  have hfit : Config.fontBase + defaultFont.length ≤ Config.memSize := by decide
  refine Memory.eq_of_get (Memory.wf_putRange Memory.wf_nil (.inr hfit)) Memory.wf_nil fun a => ?_
  by_cases ha : a < Config.fontBase ∨ Config.fontBase + defaultFont.length ≤ a
  · exact Memory.get_putRange_outside _ _ _ ha
  · obtain ⟨k, rfl⟩ := Nat.exists_eq_add_of_le (show Config.fontBase ≤ a by omega)
    have hk : k < defaultFont.length := by omega
    rw [Memory.get_putRange_inside Memory.wf_nil hfit k hk, Memory.get_nil, unlistedByte_font hk]

/-- The reset state is a machine the host can start: the default font and no ROM (R294). -/
theorem loadRom_construct_defaultFont :
    (State.construct ⟨defaultFont.toArray, by decide⟩).loadRom [] = some State.reset := by
  refine State.loadRom_eq_some.mpr ⟨Nat.zero_le _, ?_⟩
  simp only [State.construct, Vector.toList_mk, putRange_defaultFont]
  rfl

/-- The idle loop: the CPU runs, and the word it fetches is a jump to where it stands (R301). -/
theorem State.idles_iff {s : State} :
    s.idles = true ↔ s.rs = .running ∧ ∃ w, s.fetch = some w ∧ decode w = .ok (.jp s.pc) := by
  unfold State.idles
  split
  case h_1 w hr hf => simp [hr, hf]
  case h_2 hr hf => simp [hf]
  case h_3 x hr => simp [hr]
  case h_4 k hr => simp [hr]

/-- Settles O59: construction writes the font and `PC` over the reset state. -/
theorem constructionState : Obligations.ConstructionState := fun font =>
  ⟨fun _ => State.loadRom_eq_none, fun _ => State.construct_readByte_font font,
    fun _ => State.construct_readByte_outside font, rfl, rfl, State.reset_reg, rfl, rfl, fun _ => State.reset_stack,
    rfl, rfl, rfl, State.reset_pixel⟩

/-- Settles O60: the ROM's bytes read back in its range, all else reads as before. -/
theorem loadRomCopies : Obligations.LoadRomCopies := by
  intro s rom hwf hlen
  refine ⟨_, State.loadRom_eq_some.mpr ⟨hlen, rfl⟩, rfl, fun k hk => ?_, fun a ha => ?_, ?_⟩
  · rw [List.getElem?_eq_getElem hk]
    exact congrArg some (Memory.get_putRange_inside hwf (entryPoint_add_length_le hlen) k hk)
  · exact Memory.get_putRange_outside _ _ _ ha
  · exact ((Keeps.refl _ _ s).setMem (List.mem_singleton_self _) _).setPc _

/-- Settles O56: the two writes keep memory canonical, `PC` is the entry point, the stack is empty and no key is awaited. -/
theorem loadedMachineMeetsInvariant : Obligations.LoadedMachineMeetsInvariant := by
  intro font rom s h
  obtain ⟨hlen, rfl⟩ := State.loadRom_eq_some.mp h
  exact {
    memory := Memory.wf_putRange (State.construct_mem_wf font) (.inr (entryPoint_add_length_le hlen))
    pcBound := show (0x200#16).toNat ≤ 0x10FE by decide
    stackAddresses := fun _ hk => absurd hk (Nat.not_lt_zero _)
    waiting := fun _ hx => nomatch hx }

/-- Settles O57: the step runs the jump, which writes to `PC` what it holds. -/
theorem idleLoopChangesNothing : Obligations.IdleLoopChangesNothing := by
  intro s h
  obtain ⟨hrs, w, hf, hd⟩ := State.idles_iff.mp h
  exact cpuStep_of_decode hrs hf hd

/-- Settles O55: the reset state is one of the machines the host can start. -/
theorem resetMeetsInvariant : Obligations.ResetMeetsInvariant :=
  loadedMachineMeetsInvariant _ _ _ loadRom_construct_defaultFont

/-- Settles O58: the items by the tables of the reset state, the last by the default font being the memory's reset contents. -/
theorem resetState : Obligations.ResetState :=
  ⟨State.reset_reg, rfl, rfl, fun _ => State.reset_stack, rfl, rfl, rfl, rfl, rfl, rfl, State.reset_pixel,
    fun _ => unlistedByte_outside_font, loadRom_construct_defaultFont⟩

end Sys2Proof.Machine
